-- ==== Sys2Proof/Word.lean ====
section
/-! DEFINITION. The value types of spec/00_scope.md R10 and the 6-byte peer address of spec/45_peer_transceiver.md R281. -/

namespace Sys2Proof

/-- u8 of R10: a byte of a port, a buffer or an 8-bit register. -/
abbrev Byte := BitVec 8

/-- u16 of R10. -/
abbrev Half := BitVec 16

/-- u32 of R10: a command word, a counter, a result value. -/
abbrev Word := BitVec 32

/-- A peer address: a string of 6 bytes, byte 0 first as the radio delivers it. Equality is equality of
all 6 bytes (R281, 10_state.md R40). -/
structure Addr where
  a0 : Byte
  a1 : Byte
  a2 : Byte
  a3 : Byte
  a4 : Byte
  a5 : Byte
deriving DecidableEq, Repr, Inhabited

end Sys2Proof
end

