-- ==== Sys2Proof/Syntax.lean ====
section
/-! DEFINITION. The command set of spec/30_encoding.md R110: one constructor of `Instr` per row of spec/opcode_table.json. -/

namespace Sys2Proof

/-- The mode of a WAIT (R102, R104): T = 0 waits forever (`inf`), T = 1 waits with a timeout (`timed`). -/
inductive WaitMode where
  | inf
  | timed
deriving DecidableEq, Repr

/-- A slot of the peer table (10_state.md R40, 30_encoding.md R104): BCAST = 0, PRI = 1, SEC = 2, RSV = 3. -/
inductive PeerId where
  | bcast
  | pri
  | sec
  | rsv
deriving DecidableEq, Repr

/-- The 40 commands of R110, with the operands of their formats (R101 to R109).
A W4 operand is the word `W = LE32(d0, d1, d2, d3)` (R106). The length L of PT.RX and PT.SEND is the length
of the data string the command carries (R108, R109). -/
inductive Instr where
  /-- CRSF.FEED b (41_crsf.md R171) -/
  | crsfFeed (b : Byte)
  /-- CRSF.UNPACK (41_crsf.md R180) -/
  | crsfUnpack
  /-- CRSF.CHRAW i (46_decoder_interface.md R330) -/
  | crsfChraw (i : Byte)
  /-- CRSF.CHPWM i (R331) -/
  | crsfChpwm (i : Byte)
  /-- CRSF.STATUS sel (R332) -/
  | crsfStatus (sel : Byte)
  /-- CRSF.TAKE (R333) -/
  | crsfTake
  /-- CRSF.WAIT t (R334) -/
  | crsfWait (t : WaitMode)
  /-- SBUS.FEED b (42_sbus.md R201) -/
  | sbusFeed (b : Byte)
  /-- SBUS.UNPACK (42_sbus.md R210) -/
  | sbusUnpack
  /-- SBUS.CHRAW i (R340) -/
  | sbusChraw (i : Byte)
  /-- SBUS.CHPWM i (R341) -/
  | sbusChpwm (i : Byte)
  /-- SBUS.STATUS sel (R342) -/
  | sbusStatus (sel : Byte)
  /-- SBUS.TAKE (R343) -/
  | sbusTake
  /-- SBUS.WAIT t (R344) -/
  | sbusWait (t : WaitMode)
  /-- IBUS.FEED b (43_ibus.md R231) -/
  | ibusFeed (b : Byte)
  /-- IBUS.UNPACK (43_ibus.md R240) -/
  | ibusUnpack
  /-- IBUS.CHRAW i (R350) -/
  | ibusChraw (i : Byte)
  /-- IBUS.CHPWM i (R351) -/
  | ibusChpwm (i : Byte)
  /-- IBUS.STATUS sel (R352) -/
  | ibusStatus (sel : Byte)
  /-- IBUS.TAKE (R353) -/
  | ibusTake
  /-- IBUS.WAIT t (R354) -/
  | ibusWait (t : WaitMode)
  /-- IBUS.GETMODEL (43_ibus.md R245) -/
  | ibusGetmodel
  /-- VAL.CRC8 ci, b (44_validators.md R263) -/
  | valCrc8 (ci b : Byte)
  /-- VAL.SUM16 W (44_validators.md R264) -/
  | valSum16 (w : Word)
  /-- FPC.DECODE W (40_fixed_point_codec.md R150) -/
  | fpcDecode (w : Word)
  /-- FPC.ENCODE q (40_fixed_point_codec.md R155) -/
  | fpcEncode (q : Word)
  /-- PT.SETUP_PRIMARY ch, enc, cap (45_peer_transceiver.md R285) -/
  | ptSetupPrimary (enc : Bool) (ch : Byte) (cap : Half)
  /-- PT.SET_PRIMARY_ADDR a (R286) -/
  | ptSetPrimaryAddr (a : Addr)
  /-- PT.ADD_SECONDARY ch, enc, cap [, a] (R287); `none` is A = 0 -/
  | ptAddSecondary (enc : Bool) (ch : Byte) (cap : Half) (a : Option Addr)
  /-- PT.RX src, data (R290) -/
  | ptRx (src : Addr) (data : List Byte)
  /-- PT.SEND p, data (R296); `isNull` is the flag Z -/
  | ptSend (p : PeerId) (isNull : Bool) (data : List Byte)
  /-- PT.BCAST_ID n, dly (R298) -/
  | ptBcastId (n : Byte) (dly : Half)
  /-- PT.GET_MY_ID (R300) -/
  | ptGetMyId
  /-- PT.GET_PRIMARY_ID (R301) -/
  | ptGetPrimaryId
  /-- PT.TAKE p (R303) -/
  | ptTake (p : PeerId)
  /-- PT.WAIT p, t (R304) -/
  | ptWait (p : PeerId) (t : WaitMode)
  /-- PT.READBUF p, x (R302) -/
  | ptReadbuf (p : PeerId) (x : Byte)
  /-- PT.GETLEN p (R305) -/
  | ptGetlen (p : PeerId)
  /-- PT.RXCOUNT (R306) -/
  | ptRxcount
  /-- PT.TICKDELTA (R307) -/
  | ptTickdelta
deriving DecidableEq, Repr

end Sys2Proof
end

