-- ==== Sys2Proof/WellFormed.lean ====
section
/-! DEFINITION. Which terms of `Instr` a command word can spell (spec/30_encoding.md R108, R109): the length field L of
PT.SEND and PT.RX has 16 bits, so a data string has at most 65535 bytes. Every other operand's type admits exactly
the values its field encodes. -/

namespace Sys2Proof

/-- The longest data string the 16-bit field L names (R108, R109). -/
def maxDataLen : Nat := 65535

/-- The checks R108 and R109 put on a command: L fits its 16 bits. -/
def Instr.wellFormed : Instr → Bool
  | .ptRx _ data => decide (data.length ≤ maxDataLen)
  | .ptSend _ _ data => decide (data.length ≤ maxDataLen)
  | .crsfFeed _ | .crsfUnpack | .crsfChraw _ | .crsfChpwm _ | .crsfStatus _ | .crsfTake | .crsfWait _ => true
  | .sbusFeed _ | .sbusUnpack | .sbusChraw _ | .sbusChpwm _ | .sbusStatus _ | .sbusTake | .sbusWait _ => true
  | .ibusFeed _ | .ibusUnpack | .ibusChraw _ | .ibusChpwm _ | .ibusStatus _ | .ibusTake | .ibusWait _ => true
  | .ibusGetmodel => true
  | .valCrc8 _ _ | .valSum16 _ | .fpcDecode _ | .fpcEncode _ => true
  | .ptSetupPrimary _ _ _ | .ptSetPrimaryAddr _ | .ptAddSecondary _ _ _ _ => true
  | .ptBcastId _ _ | .ptGetMyId | .ptGetPrimaryId => true
  | .ptTake _ | .ptWait _ _ | .ptReadbuf _ _ | .ptGetlen _ | .ptRxcount | .ptTickdelta => true

end Sys2Proof
end

