-- ==== Sys2Proof/Decode.lean ====
section
/-! DEFINITION. Decoding and encoding of commands (spec/30_encoding.md R100 to R111). The CMD port is a stream of bytes: a
command word lies in it with C[7:0] first (DESIGN CHOICE, log 2), its data string d0, d1, … after it (R100). -/

namespace Sys2Proof

/-! ## Byte order -/

/-- LE16(lo, hi) = lo | (hi << 8) (00_scope.md R11). -/
def le16 (lo hi : Byte) : Half := hi ++ lo

/-- LE32(b0, b1, b2, b3) = b0 | b1<<8 | b2<<16 | b3<<24 (00_scope.md R11). -/
def le32 (b0 b1 b2 b3 : Byte) : Word := b3 ++ b2 ++ b1 ++ b0

/-- Byte k of a word, byte 0 the least significant (R11). -/
def byteOf {n : Nat} (w : BitVec n) (k : Nat) : Byte := w.extractLsb' (8 * k) 8

/-- The 6 bytes of an address in the order of the port (R106, R109). -/
def addrBytes (a : Addr) : List Byte := [a.a0, a.a1, a.a2, a.a3, a.a4, a.a5]

/-! ## The opcode map -/

/-- The data formats of R100 to R109. `r` is the peer setup format of R107. -/
inductive Format where
  | n | b | c | p | d | w4 | w6 | r | s | x
deriving DecidableEq, Repr

/-- The opcodes of R110, one per command. -/
inductive Opcode where
  | crsfFeed | crsfUnpack | crsfChraw | crsfChpwm | crsfStatus | crsfTake | crsfWait
  | sbusFeed | sbusUnpack | sbusChraw | sbusChpwm | sbusStatus | sbusTake | sbusWait
  | ibusFeed | ibusUnpack | ibusChraw | ibusChpwm | ibusStatus | ibusTake | ibusWait | ibusGetmodel
  | valCrc8 | valSum16 | fpcDecode | fpcEncode
  | ptSetupPrimary | ptSetPrimaryAddr | ptAddSecondary | ptRx | ptSend | ptBcastId | ptGetMyId | ptGetPrimaryId
  | ptTake | ptWait | ptReadbuf | ptGetlen | ptRxcount | ptTickdelta
deriving DecidableEq, Repr

/-- C[31:24] of each command: the OP column of R110. -/
def opByte : Opcode → Byte
  | .crsfFeed => 0x10 | .crsfUnpack => 0x11 | .crsfChraw => 0x12 | .crsfChpwm => 0x13
  | .crsfStatus => 0x14 | .crsfTake => 0x15 | .crsfWait => 0x16
  | .sbusFeed => 0x20 | .sbusUnpack => 0x21 | .sbusChraw => 0x22 | .sbusChpwm => 0x23
  | .sbusStatus => 0x24 | .sbusTake => 0x25 | .sbusWait => 0x26
  | .ibusFeed => 0x30 | .ibusUnpack => 0x31 | .ibusChraw => 0x32 | .ibusChpwm => 0x33
  | .ibusStatus => 0x34 | .ibusTake => 0x35 | .ibusWait => 0x36 | .ibusGetmodel => 0x37
  | .valCrc8 => 0x40 | .valSum16 => 0x41
  | .fpcDecode => 0x50 | .fpcEncode => 0x51
  | .ptSetupPrimary => 0x60 | .ptSetPrimaryAddr => 0x61 | .ptAddSecondary => 0x62 | .ptRx => 0x63
  | .ptSend => 0x64 | .ptBcastId => 0x65 | .ptGetMyId => 0x66 | .ptGetPrimaryId => 0x67
  | .ptTake => 0x68 | .ptWait => 0x69 | .ptReadbuf => 0x6A | .ptGetlen => 0x6B
  | .ptRxcount => 0x6C | .ptTickdelta => 0x6D

/-- The format column of R110. -/
def opFormat : Opcode → Format
  | .crsfFeed | .crsfChraw | .crsfChpwm | .crsfStatus | .crsfWait => .b
  | .sbusFeed | .sbusChraw | .sbusChpwm | .sbusStatus | .sbusWait => .b
  | .ibusFeed | .ibusChraw | .ibusChpwm | .ibusStatus | .ibusWait => .b
  | .crsfUnpack | .crsfTake | .sbusUnpack | .sbusTake | .ibusUnpack | .ibusTake | .ibusGetmodel => .n
  | .valCrc8 => .c
  | .valSum16 | .fpcDecode | .fpcEncode => .w4
  | .ptSetupPrimary | .ptAddSecondary => .r
  | .ptSetPrimaryAddr => .w6
  | .ptRx => .x
  | .ptSend => .s
  | .ptBcastId => .d
  | .ptGetMyId | .ptGetPrimaryId | .ptRxcount | .ptTickdelta => .n
  | .ptTake | .ptWait | .ptReadbuf | .ptGetlen => .p

/-- The rows of R110 in its order. -/
def opcodes : List Opcode :=
  [.crsfFeed, .crsfUnpack, .crsfChraw, .crsfChpwm, .crsfStatus, .crsfTake, .crsfWait,
   .sbusFeed, .sbusUnpack, .sbusChraw, .sbusChpwm, .sbusStatus, .sbusTake, .sbusWait,
   .ibusFeed, .ibusUnpack, .ibusChraw, .ibusChpwm, .ibusStatus, .ibusTake, .ibusWait, .ibusGetmodel,
   .valCrc8, .valSum16, .fpcDecode, .fpcEncode,
   .ptSetupPrimary, .ptSetPrimaryAddr, .ptAddSecondary, .ptRx, .ptSend, .ptBcastId, .ptGetMyId, .ptGetPrimaryId,
   .ptTake, .ptWait, .ptReadbuf, .ptGetlen, .ptRxcount, .ptTickdelta]

/-- The row of R110 whose OP is this byte; none for a reserved or unassigned opcode (R111). -/
def opOfByte (b : Byte) : Option Opcode := opcodes.find? (fun o => opByte o == b)

/-! ## Command words -/

/-- A command word C by its byte lanes: `op` = C[31:24], `hi` = C[23:16], `mid` = C[15:8], `lo` = C[7:0]. Every field of
R101 to R109 lies in one lane or is two whole lanes. -/
structure CmdWord where
  op  : Byte
  hi  : Byte
  mid : Byte
  lo  : Byte
deriving DecidableEq, Repr

/-- The 16-bit field C[15:0] (L of R108 and R109). -/
def wordLen (w : CmdWord) : Nat := (le16 w.lo w.mid).toNat

/-- The number of data bytes that follow a command word of a format (R100). A = C[17] is bit 1 of the lane `hi` and counts
for PT.ADD_SECONDARY alone. -/
def dataLen (o : Opcode) (w : CmdWord) : Nat :=
  match opFormat o with
  | .n | .b | .c | .p | .d => 0
  | .w4 => 4
  | .w6 => 6
  | .r => if o = .ptAddSecondary ∧ w.hi.getLsbD 1 = true then 8 else 2
  | .s => wordLen w
  | .x => 6 + wordLen w

/-- Why a command word spells no command (R111). -/
inductive Illegal where
  /-- an opcode not in R110, the reserved ones included -/
  | unknownOpcode
  /-- a must-be-zero bit of R101 to R109 is 1 -/
  | mustBeZero
  /-- mode bits 7:1 of a WAIT or PT.WAIT are not 0 -/
  | waitMode
  /-- X ≠ 0 in a PT.TAKE or PT.GETLEN -/
  | operandX
  /-- A = 1 in a PT.SETUP_PRIMARY -/
  | addressFlag
  /-- the data string is not of the length R100 fixes; `decode` never passes such a string -/
  | dataLength
deriving DecidableEq, Repr

/-- The slot a 2-bit field P names (R104, R108). -/
def peerOfBits (p : BitVec 2) : PeerId :=
  if p = 0 then .bcast else if p = 1 then .pri else if p = 2 then .sec else .rsv

/-- The 2-bit field P of a slot (R104, R108). -/
def peerBits : PeerId → BitVec 2
  | .bcast => 0
  | .pri => 1
  | .sec => 2
  | .rsv => 3

/-- The wait mode in bit 0 of an operand byte; bits 7:1 must be 0 (R102, R104, R111). -/
def waitModeOfByte (b : Byte) : Except Illegal WaitMode :=
  if b = 0 then .ok .inf else if b = 1 then .ok .timed else .error .waitMode

/-- The operand byte of a wait mode (R102). -/
def waitModeByte : WaitMode → Byte
  | .inf => 0
  | .timed => 1

/-- Format N (R101): C[23:0] = 0. -/
def formatN (w : CmdWord) (i : Instr) : Except Illegal Instr :=
  if w.hi = 0 ∧ w.mid = 0 ∧ w.lo = 0 then .ok i else .error .mustBeZero

/-- Format B (R102): C[23:8] = 0, B = C[7:0]. -/
def formatB (w : CmdWord) (f : Byte → Instr) : Except Illegal Instr :=
  if w.hi = 0 ∧ w.mid = 0 then .ok (f w.lo) else .error .mustBeZero

/-- Format B of a WAIT (R102): B[0] = T, B[7:1] = 0. -/
def formatBWait (w : CmdWord) (f : WaitMode → Instr) : Except Illegal Instr :=
  if w.hi = 0 ∧ w.mid = 0 then (waitModeOfByte w.lo).map f else .error .mustBeZero

/-- Format C (R103): C[23:16] = 0, CI = C[15:8], B = C[7:0]. -/
def formatC (w : CmdWord) (f : Byte → Byte → Instr) : Except Illegal Instr :=
  if w.hi = 0 then .ok (f w.mid w.lo) else .error .mustBeZero

/-- Format P (R104): C[23:10] = 0, P = C[9:8], X = C[7:0]. -/
def formatP (w : CmdWord) (f : PeerId → Byte → Except Illegal Instr) : Except Illegal Instr :=
  if w.hi = 0 ∧ w.mid.extractLsb' 2 6 = 0 then f (peerOfBits (w.mid.extractLsb' 0 2)) w.lo else .error .mustBeZero

/-- A format P command whose X must be 0 (R104, R111). -/
def operandXZero (i : Instr) (x : Byte) : Except Illegal Instr :=
  if x = 0 then .ok i else .error .operandX

/-- Format W4 (R106): C[23:0] = 0 and W = LE32(d0, d1, d2, d3). -/
def formatW4 (w : CmdWord) (data : List Byte) (f : Word → Instr) : Except Illegal Instr :=
  if w.hi = 0 ∧ w.mid = 0 ∧ w.lo = 0 then
    match data with
    | [d0, d1, d2, d3] => .ok (f (le32 d0 d1 d2 d3))
    | _ => .error .dataLength
  else .error .mustBeZero

/-- Format W6 (R106): C[23:0] = 0 and a 6-byte address. -/
def formatW6 (w : CmdWord) (data : List Byte) (f : Addr → Instr) : Except Illegal Instr :=
  if w.hi = 0 ∧ w.mid = 0 ∧ w.lo = 0 then
    match data with
    | [d0, d1, d2, d3, d4, d5] => .ok (f ⟨d0, d1, d2, d3, d4, d5⟩)
    | _ => .error .dataLength
  else .error .mustBeZero

/-- Format R without an address (R107): C[23:18] = 0, A = C[17] must be 0, E = C[16], C[15:8] = 0, CH = C[7:0], CAP = LE16(d0, d1). -/
def formatRNoAddr (w : CmdWord) (data : List Byte) (f : Bool → Byte → Half → Instr) : Except Illegal Instr :=
  if w.hi.extractLsb' 2 6 = 0 ∧ w.mid = 0 then
    if w.hi.getLsbD 1 = true then .error .addressFlag
    else
      match data with
      | [d0, d1] => .ok (f (w.hi.getLsbD 0) w.lo (le16 d0 d1))
      | _ => .error .dataLength
  else .error .mustBeZero

/-- Format R (R107): as above, and 6 address bytes d2..d7 when A = 1. -/
def formatR (w : CmdWord) (data : List Byte) (f : Bool → Byte → Half → Option Addr → Instr) : Except Illegal Instr :=
  if w.hi.extractLsb' 2 6 = 0 ∧ w.mid = 0 then
    match w.hi.getLsbD 1, data with
    | false, [d0, d1] => .ok (f (w.hi.getLsbD 0) w.lo (le16 d0 d1) none)
    | true, [d0, d1, d2, d3, d4, d5, d6, d7] =>
      .ok (f (w.hi.getLsbD 0) w.lo (le16 d0 d1) (some ⟨d2, d3, d4, d5, d6, d7⟩))
    | _, _ => .error .dataLength
  else .error .mustBeZero

/-- Format S (R108): P = C[23:22], Z = C[21], C[20:16] = 0, L = C[15:0] data bytes. -/
def formatS (w : CmdWord) (data : List Byte) (f : PeerId → Bool → List Byte → Instr) : Except Illegal Instr :=
  if w.hi.extractLsb' 0 5 = 0 then .ok (f (peerOfBits (w.hi.extractLsb' 6 2)) (w.hi.getLsbD 5) data)
  else .error .mustBeZero

/-- Format X (R109): C[23:16] = 0, L = C[15:0], 6 source-address bytes and L data bytes. -/
def formatX (w : CmdWord) (data : List Byte) (f : Addr → List Byte → Instr) : Except Illegal Instr :=
  if w.hi = 0 then
    match data with
    | s0 :: s1 :: s2 :: s3 :: s4 :: s5 :: rest => .ok (f ⟨s0, s1, s2, s3, s4, s5⟩ rest)
    | _ => .error .dataLength
  else .error .mustBeZero

/-- Format D (R105): DLY = C[23:8], N = C[7:0]. -/
def formatD (w : CmdWord) (f : Byte → Half → Instr) : Except Illegal Instr :=
  .ok (f w.lo (le16 w.mid w.hi))

/-- The command a word and its data string spell, by the word's row of R110. -/
def decodeOperands (o : Opcode) (w : CmdWord) (data : List Byte) : Except Illegal Instr :=
  match o with
  | .crsfFeed => formatB w .crsfFeed
  | .crsfUnpack => formatN w .crsfUnpack
  | .crsfChraw => formatB w .crsfChraw
  | .crsfChpwm => formatB w .crsfChpwm
  | .crsfStatus => formatB w .crsfStatus
  | .crsfTake => formatN w .crsfTake
  | .crsfWait => formatBWait w .crsfWait
  | .sbusFeed => formatB w .sbusFeed
  | .sbusUnpack => formatN w .sbusUnpack
  | .sbusChraw => formatB w .sbusChraw
  | .sbusChpwm => formatB w .sbusChpwm
  | .sbusStatus => formatB w .sbusStatus
  | .sbusTake => formatN w .sbusTake
  | .sbusWait => formatBWait w .sbusWait
  | .ibusFeed => formatB w .ibusFeed
  | .ibusUnpack => formatN w .ibusUnpack
  | .ibusChraw => formatB w .ibusChraw
  | .ibusChpwm => formatB w .ibusChpwm
  | .ibusStatus => formatB w .ibusStatus
  | .ibusTake => formatN w .ibusTake
  | .ibusWait => formatBWait w .ibusWait
  | .ibusGetmodel => formatN w .ibusGetmodel
  | .valCrc8 => formatC w .valCrc8
  | .valSum16 => formatW4 w data .valSum16
  | .fpcDecode => formatW4 w data .fpcDecode
  | .fpcEncode => formatW4 w data .fpcEncode
  | .ptSetupPrimary => formatRNoAddr w data .ptSetupPrimary
  | .ptSetPrimaryAddr => formatW6 w data .ptSetPrimaryAddr
  | .ptAddSecondary => formatR w data .ptAddSecondary
  | .ptRx => formatX w data .ptRx
  | .ptSend => formatS w data .ptSend
  | .ptBcastId => formatD w .ptBcastId
  | .ptGetMyId => formatN w .ptGetMyId
  | .ptGetPrimaryId => formatN w .ptGetPrimaryId
  | .ptTake => formatP w (fun p x => operandXZero (.ptTake p) x)
  | .ptWait => formatP w (fun p x => (waitModeOfByte x).map (.ptWait p))
  | .ptReadbuf => formatP w (fun p x => .ok (.ptReadbuf p x))
  | .ptGetlen => formatP w (fun p x => operandXZero (.ptGetlen p) x)
  | .ptRxcount => formatN w .ptRxcount
  | .ptTickdelta => formatN w .ptTickdelta

/-! ## The byte stream of the CMD port -/

/-- What stands at the head of the CMD port. -/
inductive Decoded where
  /-- a whole command, and the bytes after it -/
  | instr (i : Instr) (rest : List Byte)
  /-- a word that spells no command (R111), and the bytes after it and its data string -/
  | illegal (why : Illegal) (rest : List Byte)
  /-- the port does not hold a whole command yet -/
  | incomplete
deriving DecidableEq, Repr

/-- Read one command (R100): the word decides its data length, and a refused word still consumes the data bytes its opcode's
format has; an unknown opcode has none (R111). -/
def decode (bytes : List Byte) : Decoded :=
  match bytes with
  | c0 :: c1 :: c2 :: c3 :: tail =>
    match opOfByte c3 with
    | none => .illegal .unknownOpcode tail
    | some o =>
      let w : CmdWord := ⟨c3, c2, c1, c0⟩
      let n := dataLen o w
      if tail.length < n then .incomplete
      else
        match decodeOperands o w (tail.take n) with
        | .ok i => .instr i (tail.drop n)
        | .error e => .illegal e (tail.drop n)
  | _ => .incomplete

/-! ## Encoding -/

/-- A command word as the CMD port holds it: C[7:0] first (log 2). -/
def wordBytes (op hi mid lo : Byte) : List Byte := [lo, mid, hi, op]

/-- The bytes of a W4 operand (R106). -/
def le32Bytes (w : Word) : List Byte := [byteOf w 0, byteOf w 1, byteOf w 2, byteOf w 3]

/-- A format N command (R101). -/
def encodeN (o : Opcode) : List Byte := wordBytes (opByte o) 0 0 0

/-- A format B command (R102). -/
def encodeB (o : Opcode) (b : Byte) : List Byte := wordBytes (opByte o) 0 0 b

/-- A format W4 command (R106). -/
def encodeW4 (o : Opcode) (w : Word) : List Byte := encodeN o ++ le32Bytes w

/-- A format P command (R104): P in C[9:8]. -/
def encodeP (o : Opcode) (p : PeerId) (x : Byte) : List Byte := wordBytes (opByte o) 0 (0#6 ++ peerBits p) x

/-- The lane C[23:16] of a format R word (R107): A in bit 17, E in bit 16. -/
def setupLane (a e : Bool) : Byte := 0#6 ++ BitVec.ofBool a ++ BitVec.ofBool e

/-- The lane C[23:16] of a format S word (R108): P in bits 23:22, Z in bit 21. -/
def sendLane (p : PeerId) (z : Bool) : Byte := peerBits p ++ BitVec.ofBool z ++ 0#5

/-- The bytes that spell a command (R100 to R110). -/
def encode : Instr → List Byte
  | .crsfFeed b => encodeB .crsfFeed b
  | .crsfUnpack => encodeN .crsfUnpack
  | .crsfChraw i => encodeB .crsfChraw i
  | .crsfChpwm i => encodeB .crsfChpwm i
  | .crsfStatus s => encodeB .crsfStatus s
  | .crsfTake => encodeN .crsfTake
  | .crsfWait t => encodeB .crsfWait (waitModeByte t)
  | .sbusFeed b => encodeB .sbusFeed b
  | .sbusUnpack => encodeN .sbusUnpack
  | .sbusChraw i => encodeB .sbusChraw i
  | .sbusChpwm i => encodeB .sbusChpwm i
  | .sbusStatus s => encodeB .sbusStatus s
  | .sbusTake => encodeN .sbusTake
  | .sbusWait t => encodeB .sbusWait (waitModeByte t)
  | .ibusFeed b => encodeB .ibusFeed b
  | .ibusUnpack => encodeN .ibusUnpack
  | .ibusChraw i => encodeB .ibusChraw i
  | .ibusChpwm i => encodeB .ibusChpwm i
  | .ibusStatus s => encodeB .ibusStatus s
  | .ibusTake => encodeN .ibusTake
  | .ibusWait t => encodeB .ibusWait (waitModeByte t)
  | .ibusGetmodel => encodeN .ibusGetmodel
  | .valCrc8 ci b => wordBytes (opByte .valCrc8) 0 ci b
  | .valSum16 w => encodeW4 .valSum16 w
  | .fpcDecode w => encodeW4 .fpcDecode w
  | .fpcEncode q => encodeW4 .fpcEncode q
  | .ptSetupPrimary e ch cap =>
    wordBytes (opByte .ptSetupPrimary) (setupLane false e) 0 ch ++ [byteOf cap 0, byteOf cap 1]
  | .ptSetPrimaryAddr a => encodeN .ptSetPrimaryAddr ++ addrBytes a
  | .ptAddSecondary e ch cap none =>
    wordBytes (opByte .ptAddSecondary) (setupLane false e) 0 ch ++ [byteOf cap 0, byteOf cap 1]
  | .ptAddSecondary e ch cap (some a) =>
    wordBytes (opByte .ptAddSecondary) (setupLane true e) 0 ch ++ [byteOf cap 0, byteOf cap 1] ++ addrBytes a
  | .ptRx src data =>
    wordBytes (opByte .ptRx) 0 (byteOf (BitVec.ofNat 16 data.length) 1) (byteOf (BitVec.ofNat 16 data.length) 0)
      ++ addrBytes src ++ data
  | .ptSend p z data =>
    wordBytes (opByte .ptSend) (sendLane p z) (byteOf (BitVec.ofNat 16 data.length) 1)
      (byteOf (BitVec.ofNat 16 data.length) 0) ++ data
  | .ptBcastId n dly => wordBytes (opByte .ptBcastId) (byteOf dly 1) (byteOf dly 0) n
  | .ptGetMyId => encodeN .ptGetMyId
  | .ptGetPrimaryId => encodeN .ptGetPrimaryId
  | .ptTake p => encodeP .ptTake p 0
  | .ptWait p t => encodeP .ptWait p (waitModeByte t)
  | .ptReadbuf p x => encodeP .ptReadbuf p x
  | .ptGetlen p => encodeP .ptGetlen p 0
  | .ptRxcount => encodeN .ptRxcount
  | .ptTickdelta => encodeN .ptTickdelta

/-! ## Words of the opcode table -/

/-- The `n` low bytes of a number, least significant first. -/
def natBytes : Nat → Nat → List Byte
  | 0, _ => []
  | n + 1, w => BitVec.ofNat 8 w :: natBytes n (w / 256)

/-- How many bytes the command at the head of a byte string takes in all, as its word decides (R100). -/
def commandLength (bytes : List Byte) : Nat :=
  match bytes with
  | c0 :: c1 :: c2 :: c3 :: _ =>
    match opOfByte c3 with
    | none => 4
    | some o => 4 + dataLen o ⟨c3, c2, c1, c0⟩
  | _ => 4

/-- The bytes of a command whose bits are `w`, bit 0 the least significant bit of the word C: the `nbits` bits given, and 0 in
every data byte above them. -/
def tableBytes (nbits w : Nat) : List Byte :=
  let bytes := natBytes (nbits / 8) w
  bytes ++ List.replicate (commandLength bytes - bytes.length) 0

/-- The command that `decode` reads from the bits `w` of a table row (none where it refuses). -/
def decodeTableWord (nbits w : Nat) : Option Instr :=
  match decode (tableBytes nbits w) with
  | .instr i _ => some i
  | .illegal _ _ => none
  | .incomplete => none

end Sys2Proof
end

