-- ==== Sys2Proof/Config.lean ====
section
/-! DEFINITION. The OPEN parameters of spec/00_scope.md R8 and the model's one free value, as constants without a body:
nothing can evaluate them, so a theorem about the model holds whatever they are (log 6, log 7). The parameters R8
gives a value stand in Sys2Proof/Machine/Params.lean. -/

namespace Sys2Proof

/-- MY_ADDR (R8, R300): OPEN. -/
opaque Config.myAddr : Addr

/-- MY_CHANNEL (R8, R41): OPEN. -/
opaque Config.myChannel : Byte

/-- RADIO_MAX_LEN less one. R299 asks for a nonempty packet of at most RADIO_MAX_LEN bytes, so RADIO_MAX_LEN ≥ 1
(DEDUCED, log 7). -/
opaque Config.radioMaxLenPred : Nat

/-- RADIO_MAX_LEN (R8, R296): OPEN, at least 1. -/
def Config.radioMaxLen : Nat := Config.radioMaxLenPred + 1

/-- The first byte of BIND_PACKET (R8, R299): OPEN. -/
opaque Config.bindPacketHead : Byte → Addr → Byte

/-- What follows the first byte of BIND_PACKET, before its length is bounded (R299): OPEN. -/
opaque Config.bindPacketTail : Byte → Addr → List Byte

/-- BIND_PACKET(channel, addr) (R8, R299): an OPEN function to a nonempty byte string of at most RADIO_MAX_LEN bytes. -/
def Config.bindPacket (channel : Byte) (addr : Addr) : List Byte :=
  Config.bindPacketHead channel addr :: (Config.bindPacketTail channel addr).take Config.radioMaxLenPred

/-- crsf_pwm(v) (R8, 46_decoder_interface.md R331): an OPEN function from 11 bits to 16 bits. -/
opaque Config.crsfPwm : BitVec 11 → Half

/-- fpc_big(w) (R8, 40_fixed_point_codec.md R153): an OPEN function of the word alone. -/
opaque Config.fpcBig : Word → Word

/-- The 32-bit value a failed command returns: R13 says that every command returns one and no rule says which
(DESIGN CHOICE: a free value, drawn afresh by a counter, log 6). -/
opaque Config.failValue : Nat → Word

end Sys2Proof
end

