-- ==== Sys2Proof/Machine/Params.lean ====
section
/-! DEFINITION. The parameters of spec/00_scope.md R8 that have a value, under their names there. The OPEN ones stand in
Sys2Proof/Config.lean. -/

namespace Sys2Proof.Machine

/-- CRSF_SYNC_A (R8, 41_crsf.md R173). -/
def crsfSyncA : Byte := 0xC8
/-- CRSF_SYNC_B (R8, R173; the spec's decision D8, log 11). -/
def crsfSyncB : Byte := 0xEE
/-- CRSF_BUDGET_US (R8, R172). -/
def crsfBudgetUs : Word := 1750
/-- CRSF_BUF (R8, 20_memory.md R80). -/
def crsfBuf : Nat := 64
/-- CRSF_LEN_MIN (R8, R174). -/
def crsfLenMin : Byte := 2
/-- CRSF_LEN_MAX (R8, R174). -/
def crsfLenMax : Byte := 62
/-- CRSF_TYPE_RC (R8, R183). -/
def crsfTypeRc : Byte := 0x16
/-- CRSF_RC_LEN, the length byte of an RC-channels frame (R8, R183). -/
def crsfRcLen : Nat := 24
/-- CRSF_CH_COUNT (R8, 10_state.md R34). -/
abbrev crsfChCount : Nat := 16
/-- CRC8_POLY (R8, 44_validators.md R261). -/
def crc8Poly : Byte := 0xD5
/-- CRC8_SEED (R8, R262). -/
def crc8Seed : Byte := 0x00
/-- SBUS_START (R8, 42_sbus.md R203). -/
def sbusStart : Byte := 0x0F
/-- SBUS_END (R8, R205). -/
def sbusEnd : Byte := 0x00
/-- SBUS_FRAME, also the size of the SBUS buffers (R8, R80, R201). -/
def sbusFrame : Nat := 25
/-- The data channels of SBUS_CH_COUNT (R8, R211). -/
abbrev sbusDataChannels : Nat := 16
/-- SBUS_CH_COUNT: the data channels and two flag channels (R8, R212). -/
abbrev sbusChCount : Nat := sbusDataChannels + 2
/-- SBUS_MAP on a raw value (R8, R213): raw*5/8 + 880, with floor division. -/
def sbusMap (raw : Nat) : Nat := raw * 5 / 8 + 880
/-- SBUS_BUDGET_US = 3000 + 500 (R8, R202). -/
def sbusBudgetUs : Word := 3500
/-- The full-length value of IBUS_SYNC_IA6B (R8, 43_ibus.md R232). -/
def ibusSyncIa6b : Byte := 0x20
/-- The telemetry value of IBUS_SYNC_IA6B (R8, R232, R236). -/
def ibusSyncTelemetry : Byte := 0x04
/-- IBUS_SYNC_IA6 (R8, R232). -/
def ibusSyncIa6 : Byte := 0x55
/-- IBUS_FRAME_IA6 (R8, R232). -/
def ibusFrameIa6 : Byte := 31
/-- IBUS_BUF (R8, R80). -/
def ibusBuf : Nat := 32
/-- IBUS_BUDGET_US (R8, R233). -/
def ibusBudgetUs : Word := 3000
/-- IBUS_SEED_IA6 (R8, R232). -/
def ibusSeedIa6 : Half := 0x0000
/-- IBUS_SEED_IA6B (R8, R232). -/
def ibusSeedIa6b : Half := 0xFFFF
/-- IBUS_OFFSET_IA6B (R8, R232). -/
def ibusOffsetIa6b : Byte := 2
/-- IBUS_OFFSET_IA6 (R8, R232). -/
def ibusOffsetIa6 : Byte := 1
/-- IBUS_SLOTS (R8, R241). -/
def ibusSlots : Nat := 14
/-- IBUS_CH_COUNT (R8, R242): one channel for each slot and four extension channels. -/
abbrev ibusChCount : Nat := 18
/-- STICK_COUNT (R8, 00_scope.md R9): indices 0 to 3 are roll, pitch, throttle and yaw. -/
def stickCount : Nat := 4
/-- The auxiliary channels of a unit (R9): CH_COUNT less STICK_COUNT. -/
def auxChannels (chCount : Nat) : Nat := chCount - stickCount
/-- CHANNEL_LOW (R8, 46_decoder_interface.md R360). -/
def channelLow : Word := 1000
/-- CHANNEL_HIGH (R8, R341). -/
def channelHigh : Word := 2000
/-- FPC_FRAC_BITS: the fraction bits of the codec's fixed-point values, scale 2^11 = 2048 (R8, 40_fixed_point_codec.md R150,
R155). -/
def fpcFracBits : Nat := 11
/-- UNPACK_ATOMIC (R8, 20_memory.md R88): this hardware takes true, and an UNPACK is one step (log 10). -/
def unpackAtomic : Bool := true
/-- PT_SLOTS (R8, 10_state.md R40): the constructors of `PeerId`. -/
def ptSlots : Nat := 4
/-- BIND_REPEATS: the repeat count a caller of PT.BCAST_ID passes by default (R8, 30_encoding.md R105); the block applies no
default itself. -/
def bindRepeats : Byte := 20
/-- BIND_DELAY_MS: the delay a caller of PT.BCAST_ID passes by default (R8, R105). -/
def bindDelayMs : Half := 50
/-- BCAST_ADDR (R8, 45_peer_transceiver.md R281). -/
def bcastAddr : Addr := ⟨0xFF, 0xFF, 0xFF, 0xFF, 0xFF, 0xFF⟩
/-- ZERO_ADDR, the unset address (R8, R281). -/
def zeroAddr : Addr := ⟨0, 0, 0, 0, 0, 0⟩
/-- PT_CAP_MAX (R8, R283). -/
def ptCapMax : Nat := 256

/-- TIME_BITS (R8, 60_exceptions.md R410): the width of a `Word`, which TIME_US, START and the budgets are. -/
def timeBits : Nat := 32
/-- TICK_BITS (R8, R411): the width of a `Word`, which TICK, LAST_TICK and TICK_DELTA are. -/
def tickBits : Nat := 32

end Sys2Proof.Machine
end

