-- ==== Sys2Proof/Machine/State.lean ====
section
/-! DEFINITION. The state of the block (spec/10_state.md R30 to R45) with the ports of spec/00_scope.md R6, as plain data,
and its reset value (spec/70_reset_and_hazards.md R440, R441). -/

namespace Sys2Proof.Machine

/-! ## The decoder units -/

/-- The bytes of one internal buffer (20_memory.md R80): index and byte, indices strictly rising, no entry equal to 0, which is
what every buffer byte holds at reset (R34, R41). Its operations stand in Machine/Ops.lean. -/
abbrev Memory := List Host.Cell

/-- The registers every decoder unit has (R34), but for CH, whose count differs by unit. -/
structure Decoder where
  /-- u.IDX: index of the next byte of the working frame; 0 = waiting for sync -/
  idx     : Byte
  /-- u.WORK: the working buffer -/
  work    : Memory
  /-- u.STABLE: the stable buffer -/
  stable  : Memory
  /-- u.SLEN: length of the frame in STABLE -/
  slen    : Byte
  /-- u.START: TIME_US at the last accepted sync byte -/
  start   : Word
  /-- u.EMPTY: no unconsumed frame in STABLE -/
  empty   : Bool
  /-- u.READY: the readiness signal -/
  ready   : Bool
  /-- u.DROPPED: frames abandoned by resync timeout -/
  dropped : Word
  /-- u.RXCOUNT: frames published -/
  rxcount : Word
deriving DecidableEq, Repr

/-- The CRSF unit (R34, R35). -/
structure CrsfUnit where
  dec    : Decoder
  /-- CRSF.TARGET: declared total frame length -/
  target : Byte
  /-- CRSF.CH -/
  ch     : Vector Half crsfChCount
deriving DecidableEq, Repr

/-- The SBUS unit (R34, R36). -/
structure SbusUnit where
  dec    : Decoder
  /-- SBUS.ERRORS: 25-byte frames whose last byte was not SBUS_END -/
  errors : Word
  /-- SBUS.CH: 16 data channels and two flag channels -/
  ch     : Vector Half sbusChCount
deriving DecidableEq, Repr

/-- IBUS.MODEL (R37): 0 = NONE, 1 = IA6B, 2 = IA6; 3 never occurs. -/
inductive IbusModel where
  | none
  | ia6b
  | ia6
deriving DecidableEq, Repr

/-- The IBUS unit (R34, R37). -/
structure IbusUnit where
  dec     : Decoder
  /-- IBUS.MODEL, latched at the last accepted byte 0 -/
  model   : IbusModel
  /-- IBUS.OFFSET -/
  offset  : Byte
  /-- IBUS.SIZE -/
  size    : Byte
  /-- IBUS.SEED -/
  seed    : Half
  /-- IBUS.SOFFSET: OFFSET of the frame in STABLE -/
  soffset : Byte
  /-- IBUS.SSEED: SEED of the frame in STABLE -/
  sseed   : Half
  /-- IBUS.CH: 14 base channels and four extension channels -/
  ch      : Vector Half ibusChCount
deriving DecidableEq, Repr

/-! ## The PeerTransceiver -/

/-- One slot of the peer table (R40). -/
structure Slot where
  /-- REG: registered -/
  reg  : Bool
  /-- ASET: the address is set -/
  aset : Bool
  /-- ADDR -/
  addr : Addr
  /-- RXEN: receive enabled, a constant of the slot (log 12) -/
  rxen : Bool
  /-- CHAN: stored only -/
  chan : Byte
  /-- ENC: stored only -/
  enc  : Bool
  /-- CAP: receive buffer capacity -/
  cap  : Half
  /-- LEN: length of the last frame copied into BUF -/
  len  : Half
  /-- BUF: the receive buffer -/
  buf  : Memory
deriving DecidableEq, Repr

/-- The transceiver's registers (R40, R42, R43). -/
structure Transceiver where
  bcast     : Slot
  pri       : Slot
  sec       : Slot
  rsv       : Slot
  /-- PT.RXCOUNT: frames delivered to the primary slot -/
  rxcount   : Word
  /-- PT.LAST_TICK -/
  lastTick  : Word
  /-- PT.TICK_DELTA -/
  tickDelta : Word
  /-- PT.READY[PRI] -/
  readyPri  : Bool
  /-- PT.READY[SEC] -/
  readySec  : Bool
  /-- PT.BID_ACTIVE: a PT.BCAST_ID is in progress -/
  bidActive : Bool
  /-- PT.BID_LEFT: sends still to perform -/
  bidLeft   : Byte
deriving DecidableEq, Repr

/-! ## Ports -/

/-- The agents that issue commands (00_scope.md R7). -/
inductive Agent where
  | pCrsf
  | pSbus
  | pIbus
  | pRadio
  | consumer
deriving DecidableEq, Repr

/-- Which units the consumer feeds inline at a step, as their only producer: the time-sliced discipline of 60_exceptions.md R406
(92_eei_decisions.md D40). A unit not named here is fed by its own producer agent alone. -/
structure Inline where
  crsf : Bool
  sbus : Bool
  ibus : Bool
deriving DecidableEq, Repr

/-- Every unit is fed by its own producer agent. -/
def Inline.none : Inline := { crsf := false, sbus := false, ibus := false }

/-- What stands outside the block at one step (R7, R12): TIME_US, TICK, the radio driver's answer, whether a timed wait expires,
and the discipline in which each unit is fed (log 13). -/
structure Env where
  /-- TIME_US, a `Word` of `timeBits` bits (R8, R410) -/
  timeUs   : Word
  /-- TICK, a `Word` of `tickBits` bits (R8, R411) -/
  tick     : Word
  radioOk  : Bool
  timedOut : Bool
  inline   : Inline
deriving DecidableEq, Repr

/-- One entry of the interleaving (60_exceptions.md R405): the agent that moves and what ENV supplies then (log 1). -/
structure Turn where
  agent : Agent
  env   : Env
deriving DecidableEq, Repr

/-- One frame on RADIO_RX (R6, R290): source address and data; the length is the data's. -/
structure RadioFrame where
  src  : Addr
  data : List Byte
deriving DecidableEq, Repr

/-- One request on RADIO_TX (R6, R296): destination address and bytes. -/
structure Transmission where
  dest : Addr
  data : List Byte
deriving DecidableEq, Repr

/-- The result statuses (R13, 30_encoding.md R112). -/
inductive Status where
  /-- the command completed -/
  | ok
  /-- refused encoding, or a STATUS selector with no register -/
  | illegal
  /-- an operand value out of range -/
  | arg
  /-- send to a peer whose address is not set -/
  | unbound
  /-- the radio driver refused the transmission -/
  | radio
  /-- PT.SET_PRIMARY_ADDR after the primary is bound -/
  | fail
deriving DecidableEq, Repr

/-- A result on CMD (R13): a status, a 32-bit value and, for the two commands that return one, a byte string. -/
structure Reply where
  status : Status
  value  : Word
  bytes  : List Byte
deriving DecidableEq, Repr

/-- The signal a WAIT waits for (46_decoder_interface.md R334, R344, R354; 45_peer_transceiver.md R304). -/
inductive WaitTarget where
  | crsf
  | sbus
  | ibus
  | peer (p : PeerId)
deriving DecidableEq, Repr

/-- A WAIT of the consumer that found no enabled step (R12 `block`, R407): the command itself and nothing else (R425, log 4). -/
structure PendingWait where
  target : WaitTarget
  mode   : WaitMode
deriving DecidableEq, Repr

/-! ## Outcomes other than a next state -/

/-- Why the machine stops. -/
inductive Fault where
  /-- An access at an index that the buffer does not have (20_memory.md R80 derives that no reachable state makes one).
  Raised by the FEED, UNPACK and PT.RX meanings. Safe: from every state that meets the model's invariant none is raised (log 9). -/
  | outsideBuffer
deriving DecidableEq, Repr

/-- Why an instruction has no meaning. -/
inductive Refusal where
  /-- An instruction exec has no meaning for; raised by exec's arms alone, and by none of them now. Safe. -/
  | notModelled (mnemonic : String)
deriving DecidableEq, Repr

/-! ## The whole state -/

/-- The state of the block (R30) and its ports (R6). -/
structure State where
  crsf       : CrsfUnit
  sbus       : SbusUnit
  ibus       : IbusUnit
  pt         : Transceiver
  /-- BYTE_IN[CRSF]: bytes presented and not yet taken -/
  byteInCrsf : List Byte
  /-- BYTE_IN[SBUS] -/
  byteInSbus : List Byte
  /-- BYTE_IN[IBUS] -/
  byteInIbus : List Byte
  /-- RADIO_RX: frames presented and not yet taken -/
  radioRx    : List RadioFrame
  /-- CMD: the consumer's commands, as bytes presented and not yet taken -/
  cmd        : List Byte
  /-- the interleaving still to come (log 1) -/
  turns      : List Turn
  /-- what ENV supplies at the present step -/
  env        : Env
  /-- the consumer's blocked WAIT (log 4) -/
  waiting    : Option PendingWait
  /-- the result the present step returned, if its command ended -/
  reply      : Option Reply
  /-- RADIO_TX: the transmit requests emitted since reset, oldest first (log 14) -/
  radioTx    : List Transmission
  /-- the counter the free value of a failed command is drawn with (log 6) -/
  freeCount  : Nat
deriving DecidableEq, Repr

/-- What a meaning and a step answer. -/
abbrev Result := Host.Outcome State Fault Refusal

/-! ## Reset -/

/-- R34: all 0, EMPTY = 1. -/
def Decoder.reset : Decoder :=
  { idx := 0, work := [], stable := [], slen := 0, start := 0, empty := true, ready := false, dropped := 0, rxcount := 0 }

/-- R34, R35. -/
def CrsfUnit.reset : CrsfUnit := { dec := Decoder.reset, target := 0, ch := Vector.replicate crsfChCount 0 }

/-- R34, R36. -/
def SbusUnit.reset : SbusUnit := { dec := Decoder.reset, errors := 0, ch := Vector.replicate sbusChCount 0 }

/-- R34, R37. -/
def IbusUnit.reset : IbusUnit :=
  { dec := Decoder.reset, model := .none, offset := 0, size := 0, seed := 0, soffset := 0, sseed := 0,
    ch := Vector.replicate ibusChCount 0 }

/-- The broadcast slot at reset (R41): registered, receive-disabled. -/
def Slot.resetBcast : Slot :=
  { reg := true, aset := true, addr := bcastAddr, rxen := false, chan := Config.myChannel, enc := false, cap := 0,
    len := 0, buf := [] }

/-- PRI, SEC and RSV at reset (R41). -/
def Slot.resetOther : Slot :=
  { reg := false, aset := false, addr := zeroAddr, rxen := true, chan := 0, enc := false, cap := 0, len := 0, buf := [] }

/-- R41, R42, R43. -/
def Transceiver.reset : Transceiver :=
  { bcast := Slot.resetBcast, pri := Slot.resetOther, sec := Slot.resetOther, rsv := Slot.resetOther,
    rxcount := 0, lastTick := 0, tickDelta := 0, readyPri := false, readySec := false, bidActive := false, bidLeft := 0 }

/-- The state after reset (R440, R441). Nothing is presented on a port and no agent has a turn yet (DESIGN CHOICE, log 3). -/
def State.reset : State :=
  { crsf := CrsfUnit.reset, sbus := SbusUnit.reset, ibus := IbusUnit.reset, pt := Transceiver.reset,
    byteInCrsf := [], byteInSbus := [], byteInIbus := [], radioRx := [], cmd := [], turns := [],
    env := { timeUs := 0, tick := 0, radioOk := false, timedOut := false, inline := Inline.none },
    waiting := none, reply := none, radioTx := [], freeCount := 0 }

end Sys2Proof.Machine
end

