-- ==== Sys2Proof/Machine/Ops.lean ====
section
/-! DEFINITION. The named operations over buffers, decoder registers and the CMD port: spec/20_memory.md R80 to R83, the steps
spec/41_crsf.md, 42_sbus.md and 43_ibus.md share, and how a command ends (spec/00_scope.md R12, R13). The block has no trap
entry and no trap return (spec/60_exceptions.md R413, R414): what it has instead, a command ending with a failure status
(R409), is the one shared operation `State.failWith`. -/

namespace Sys2Proof.Machine

/-! ## Buffers (R80) -/

/-- What a buffer byte that no entry lists reads as: the reset value of every buffer byte (10_state.md R34, R41). -/
def Memory.unlisted : Byte := 0

/-- BufRead(m, i) (R12, R80). -/
def Memory.read : Memory → Nat → Byte
  | [], _ => Memory.unlisted
  | (a, b) :: m, i => if a = i then b else Memory.read m i

/-- BufWrite(m, i, v) (R12, R80), keeping the canonical form: the value an unlisted byte reads as takes no entry. -/
def Memory.write : Memory → Nat → Byte → Memory
  | [], i, v => if v = Memory.unlisted then [] else [(i, v)]
  | (a, b) :: m, i, v =>
    if i < a then (if v = Memory.unlisted then (a, b) :: m else (i, v) :: (a, b) :: m)
    else if i = a then (if v = Memory.unlisted then m else (i, v) :: m)
    else (a, b) :: Memory.write m i v

/-- Indices strictly rising from `lo`, and no entry equal to what an unlisted byte reads as. -/
def Memory.wfFrom : Nat → Memory → Bool
  | _, [] => true
  | lo, (a, b) :: m => decide (lo ≤ a) && decide (b ≠ Memory.unlisted) && Memory.wfFrom (a + 1) m

/-- The canonical form of a buffer. -/
def Memory.wf (m : Memory) : Bool := Memory.wfFrom 0 m

/-- Every listed byte lies below index `n`, the size of the buffer (R80). -/
def Memory.below (n : Nat) (m : Memory) : Bool := m.all (fun c => decide (c.1 < n))

/-- The `n` bytes buf[a .. a+n-1] (00_scope.md R11). -/
def Memory.bytes (m : Memory) (a n : Nat) : List Byte := (List.range n).map (fun k => m.read (a + k))

/-- BufWrite of each byte of a string, at rising indices from `i`. -/
def Memory.writeBytes : Memory → Nat → List Byte → Memory
  | m, _, [] => m
  | m, i, b :: bs => Memory.writeBytes (m.write i b) (i + 1) bs

/-! ## Steps the decoder units share -/

/-- The resync test (R172, R202, R233; 60_exceptions.md R410): a frame is in progress and `(now − START) mod 2^32` is strictly
more than the unit's budget. -/
def Decoder.expired (d : Decoder) (now budget : Word) : Bool :=
  decide (d.idx ≠ 0) && decide (budget < now - d.start)

/-- The resync timeout (R172): IDX returns to 0 and DROPPED increases by 1. -/
def Decoder.resync (d : Decoder) (now budget : Word) : Decoder :=
  if d.expired now budget then { d with idx := 0, dropped := d.dropped + 1 } else d

/-- A rejected byte at index 0 (R173, R203, R232): EMPTY <- 1. -/
def Decoder.reject (d : Decoder) : Decoder := { d with empty := true }

/-- An accepted byte at index 0 (R173, R203, R232): START <- now, WORK[0] <- b, IDX <- 1. -/
def Decoder.accept (d : Decoder) (b : Byte) (now : Word) : Decoder :=
  { d with start := now, work := d.work.write 0 b, idx := 1 }

/-- BufWrite(WORK, IDX, b); IDX <- IDX + 1, in a buffer of `size` bytes (R175, R204, R234). -/
def Decoder.store (d : Decoder) (size : Nat) (b : Byte) : Except Fault Decoder :=
  if d.idx.toNat < size then
    .ok { d with work := d.work.write d.idx.toNat b, idx := d.idx + 1 }
  else .error .outsideBuffer

/-- Publish the first `n` bytes of WORK, in buffers of `size` bytes (R83). -/
def Decoder.publish (d : Decoder) (size : Nat) (n : Byte) : Except Fault Decoder :=
  if n.toNat ≤ size then
    .ok { d with
      stable := d.stable.writeBytes 0 (d.work.bytes 0 n.toNat)
      slen := n
      empty := false
      ready := true
      rxcount := d.rxcount + 1 }
  else .error .outsideBuffer

/-! ## How a command ends (R12, R13) -/

/-- A boolean result: the value 1 or 0 (R13). -/
def boolWord (b : Bool) : Word := if b then 1 else 0

/-- `return v` (R12): status OK and a value. -/
def State.finish (s : State) (v : Word) : State := { s with reply := some ⟨.ok, v, []⟩ }

/-- `return v` with a byte string (R13, R300, R301). -/
def State.finishBytes (s : State) (v : Word) (bytes : List Byte) : State := { s with reply := some ⟨.ok, v, bytes⟩ }

/-- `fail S` and `refuse ILLEGAL` (R12, R409): the command ends with a status and changes no state of the block. The value it
returns is a free value (log 6). -/
def State.failWith (s : State) (st : Status) : State :=
  { s with reply := some ⟨st, Config.failValue s.freeCount, []⟩, freeCount := s.freeCount + 1 }

/-- `block` (R12, R407): the command has not ended, and the consumer waits at it. -/
def State.block (s : State) (w : PendingWait) : State := { s with waiting := some w, reply := none }

/-- The command has not ended and takes further steps of its own (R298). -/
def State.proceed (s : State) : State := { s with reply := none }

/-- `emit RADIO_TX(dest, data)` (R296, R298). -/
def State.emit (s : State) (dest : Addr) (data : List Byte) : State :=
  { s with radioTx := s.radioTx ++ [⟨dest, data⟩] }

/-- The code of a status (30_encoding.md R112). -/
def statusCode : Status → BitVec 32
  | .ok => 0
  | .illegal => 1
  | .arg => 2
  | .unbound => 3
  | .radio => 4
  | .fail => 5

end Sys2Proof.Machine
end

