-- ==== Sys2Proof/Machine/Operands.lean ====
section
/-! DEFINITION. Operand forms: bit fields of byte strings (spec/00_scope.md R11), channel indices (spec/46_decoder_interface.md
R360), slot operands (spec/45_peer_transceiver.md R280 to R283). -/

namespace Sys2Proof.Machine

/-! ## Byte strings (R11) -/

/-- The little-endian bit stream of a byte string as one number: bit k of it is bit (k mod 8) of byte k/8 (R11). -/
def streamNat : List Byte → Nat
  | [] => 0
  | b :: bs => b.toNat + 256 * streamNat bs

/-- BITS(bytes, pos, n): the n bits from stream bit `pos`, that bit as bit 0 of the result (R11). -/
def bits (bytes : List Byte) (pos n : Nat) : BitVec n := BitVec.ofNat n (streamNat bytes / 2 ^ pos)

/-- The 11-bit channel field i of a payload (20_memory.md R81), zero-extended to a channel register. -/
def packedChannel (payload : List Byte) (i : Nat) : Half := (bits payload (11 * i) 11).setWidth 16

/-! ## Channel indices (R360) -/

/-- A channel register, or none for an index at or above CH_COUNT. -/
def channelAt {n : Nat} (ch : Vector Half n) (i : Byte) : Option Half :=
  if h : i.toNat < n then some ch[i.toNat] else none

/-- CHRAW: the raw value, or CHANNEL_LOW for an index out of range (R330, R340, R350, R360). -/
def channelRaw {n : Nat} (ch : Vector Half n) (i : Byte) : Word :=
  match channelAt ch i with
  | some v => v.setWidth 32
  | none => channelLow

/-- The CRSF PWM map (R331): the OPEN function of the 11-bit raw value (log 15). -/
def crsfPwmOf (v : Half) : Word := (Config.crsfPwm (v.setWidth 11)).setWidth 32

/-- The SBUS PWM map of a data channel (42_sbus.md R213): raw*5/8 + 880 with floor division, no clamping. -/
def sbusPwmOf (v : Half) : Word := BitVec.ofNat 32 (sbusMap v.toNat)

/-- The SBUS PWM map of a flag channel (42_sbus.md R212, R341). -/
def sbusFlagPwmOf (v : Half) : Word := if v = 1 then channelHigh else channelLow

/-! ## Slots (R280, R282) -/

/-- The register record of a slot (10_state.md R40). -/
def Transceiver.slot (t : Transceiver) : PeerId → Slot
  | .bcast => t.bcast
  | .pri => t.pri
  | .sec => t.sec
  | .rsv => t.rsv

/-- The slots PT.READBUF, PT.TAKE, PT.WAIT and PT.GETLEN accept (R282). -/
def receives (p : PeerId) : Bool := p = .pri || p = .sec

/-- A capacity operand in range (R283). -/
def capOk (cap : Half) : Bool := decide (cap.toNat ≤ ptCapMax)

end Sys2Proof.Machine
end

