-- ==== Sys2Proof/Machine/Codec.lean ====
section
/-! DEFINITION. The FixedPointCodec (spec/40_fixed_point_codec.md R150 to R157). -/

namespace Sys2Proof.Machine

/-- sign = W[31] (30_encoding.md R125). -/
def floatSign (w : Word) : Bool := w.getLsbD 31

/-- exponent = W[30:23] (R125). -/
def floatExp (w : Word) : Nat := (w.extractLsb' 23 8).toNat

/-- mantissa = W[22:0] (R125). -/
def floatMant (w : Word) : Nat := (w.extractLsb' 0 23).toNat

/-- The exponent at which FPC.DECODE shifts by nothing: its shift is (22 − FPC_FRAC_BITS) − (e − 128) (R152), so this is 139. -/
def fpcUnshiftedExp : Nat := 22 - fpcFracBits + 128

/-- The exponent of a result of FPC.ENCODE whose magnitude is 1: 127 − FPC_FRAC_BITS (R155), so this is 116. -/
def fpcUnitExp : Nat := 127 - fpcFracBits

/-- The magnitude of FPC.DECODE for 1 ≤ e ≤ 139 (R150, R152): the 24-bit significand shifted right by 139 − e, 0 for a shift of
24 or more. -/
def fpcMagnitude (e m : Nat) : Nat :=
  if 24 ≤ fpcUnshiftedExp - e then 0 else (2 ^ 23 + m) / 2 ^ (fpcUnshiftedExp - e)

/-- FPC.DECODE (R150): zero exponent gives 0 (R151), a large one the OPEN fpc_big (R153), else sign and magnitude as i32 (R154). -/
def fpcDecodeValue (w : Word) : Word :=
  if floatExp w = 0 then 0
  else if fpcUnshiftedExp < floatExp w then Config.fpcBig w
  else
    let mag : Word := BitVec.ofNat 32 (fpcMagnitude (floatExp w) (floatMant w))
    if floatSign w then -mag else mag

/-- The 24-bit significand, possibly 2^24, of the binary32 number nearest a magnitude whose top bit is bit k, ties to even
(R156). -/
def roundSignificand (mag k : Nat) : Nat :=
  if k ≤ 23 then mag * 2 ^ (23 - k)
  else
    let unit := 2 ^ (k - 23)
    let q := mag / unit
    let r := mag % unit
    if unit < 2 * r ∨ (2 * r = unit ∧ q % 2 = 1) then q + 1 else q

/-- FPC.ENCODE (R155): the binary32 pattern of q as f32 / 2^FPC_FRAC_BITS. The magnitude's top bit k gives the
exponent 127 + k − FPC_FRAC_BITS; a significand rounded up to 2^24 carries into it. -/
def fpcEncodeValue (q : Word) : Word :=
  let mag := q.toInt.natAbs
  if mag = 0 then 0
  else
    let k := Nat.log2 mag
    let sig := roundSignificand mag k
    let e := if sig = 2 ^ 24 then fpcUnitExp + k + 1 else fpcUnitExp + k
    let m := if sig = 2 ^ 24 then 0 else sig - 2 ^ 23
    BitVec.ofNat 32 ((if q.toInt < 0 then 2 ^ 31 else 0) + e * 2 ^ 23 + m)

/-- FPC.DECODE (R150). -/
def execFpcDecode (w : Word) (s : State) : Result := .next (s.finish (fpcDecodeValue w))

/-- FPC.ENCODE (R155). -/
def execFpcEncode (q : Word) (s : State) : Result := .next (s.finish (fpcEncodeValue q))

end Sys2Proof.Machine
end

