-- ==== Sys2Proof/Machine/Flags.lean ====
section
/-! DEFINITION. The status flags of spec/10_state.md R44 and the commands over them that the units and the transceiver share:
TAKE, WAIT (spec/20_memory.md R92) and the status word SR (R38). -/

namespace Sys2Proof.Machine

/-! ## The readiness signals (46_decoder_interface.md R362, 45_peer_transceiver.md R295) -/

/-- u.READY or PT.READY[p]; slots BCAST and RSV have no signal (R42). -/
def State.readyOf (s : State) : WaitTarget → Bool
  | .crsf => s.crsf.dec.ready
  | .sbus => s.sbus.dec.ready
  | .ibus => s.ibus.dec.ready
  | .peer .pri => s.pt.readyPri
  | .peer .sec => s.pt.readySec
  | .peer .bcast => false
  | .peer .rsv => false

/-- READY <- 0. -/
def State.clearReady (s : State) : WaitTarget → State
  | .crsf => { s with crsf := { s.crsf with dec := { s.crsf.dec with ready := false } } }
  | .sbus => { s with sbus := { s.sbus with dec := { s.sbus.dec with ready := false } } }
  | .ibus => { s with ibus := { s.ibus with dec := { s.ibus.dec with ready := false } } }
  | .peer .pri => { s with pt := { s.pt with readyPri := false } }
  | .peer .sec => { s with pt := { s.pt with readySec := false } }
  | .peer .bcast => s
  | .peer .rsv => s

/-- TAKE (R303, R333, R343, R353): return the signal and clear it, in one step. -/
def State.take (s : State) (t : WaitTarget) : State := (s.clearReady t).finish (boolWord (s.readyOf t))

/-- WAIT (R304, R334, R344, R354): a set signal is cleared and 1 returned; else a timed wait whose timeout ENV says has expired
returns 0, and every other wait blocks (R407). -/
def State.wait (s : State) (t : WaitTarget) (m : WaitMode) : State :=
  if s.readyOf t then (s.clearReady t).finish 1
  else
    match m with
    | .inf => s.block ⟨t, m⟩
    | .timed => if s.env.timedOut then s.finish 0 else s.block ⟨t, m⟩

/-! ## The status word SR (R38) -/

/-- SR: EMPTY in bit 0, READY in bit 1, IDX in 15:8, TARGET in 23:16, MODEL in 25:24, the other bits 0 (R38). -/
def statusWord (d : Decoder) (target : Byte) (model : BitVec 2) : Word :=
  0#6 ++ model ++ target ++ d.idx ++ 0#6 ++ BitVec.ofBool d.ready ++ BitVec.ofBool d.empty

/-- The 2-bit encoding of MODEL (R37). -/
def modelBits : IbusModel → BitVec 2
  | .none => 0
  | .ia6b => 1
  | .ia6 => 2

/-- SR of the CRSF unit (R38). -/
def CrsfUnit.status (u : CrsfUnit) : Word := statusWord u.dec u.target 0

/-- SR of the SBUS unit (R38): TARGET reads 25. -/
def SbusUnit.status (u : SbusUnit) : Word := statusWord u.dec (BitVec.ofNat 8 sbusFrame) 0

/-- SR of the IBUS unit (R38). -/
def IbusUnit.status (u : IbusUnit) : Word := statusWord u.dec u.size (modelBits u.model)

/-- A STATUS command (R39): the selected register's value, or ILLEGAL where the selector has no register. -/
def State.readStatus (s : State) : Option Word → State
  | some v => s.finish v
  | none => s.failWith .illegal

end Sys2Proof.Machine
end

