-- ==== Sys2Proof/Machine/Validators.lean ====
section
/-! DEFINITION. The CRC and checksum validators (spec/44_validators.md R260 to R266). -/

namespace Sys2Proof.Machine

/-- One bit of the CRC-8 (R261): shift left, and fold in the polynomial when the bit shifted out is 1. -/
def crc8Shift (x : Byte) : Byte := if x.getLsbD 7 then (x <<< 1) ^^^ crc8Poly else x <<< 1

/-- `n` bits of the CRC-8 (R261). -/
def crc8Shifts : Nat → Byte → Byte
  | 0, x => x
  | n + 1, x => crc8Shifts n (crc8Shift x)

/-- crc8_step(ci, b) (R261). -/
def crc8Step (ci b : Byte) : Byte := crc8Shifts 8 (ci ^^^ b)

/-- crc8(seed, bytes) (R261). -/
def crc8 (seed : Byte) (bytes : List Byte) : Byte := bytes.foldl crc8Step seed

/-- crsf_frame_ok(f, L) (R262): L ≥ 4 and the CRC-8 of bytes 2 .. L−2 is byte L−1. -/
def crsfFrameOk (f : Memory) (len : Nat) : Bool :=
  decide (4 ≤ len) && decide (crc8 crc8Seed (f.bytes 2 (len - 3)) = f.read (len - 1))

/-- sum16(seed, s) (R265): the LE16 byte pairs added to the seed mod 2^16. -/
def sum16 (seed : Half) : List Byte → Half
  | lo :: hi :: rest => sum16 (seed + le16 lo hi) rest
  | [_] => seed
  | [] => seed

/-- ibus_frame_ok(f, n, o, seed) (R266): n ≥ o + 30 and the sum of the 14 slots f[o .. o+27] is LE16(f[n−2], f[n−1]). -/
def ibusFrameOk (f : Memory) (n o : Nat) (seed : Half) : Bool :=
  decide (o + 30 ≤ n) && decide (sum16 seed (f.bytes o (2 * ibusSlots)) = le16 (f.read (n - 2)) (f.read (n - 1)))

/-- VAL.SUM16 (R264): ACC = W[15:0], LO = W[23:16], HI = W[31:24]. -/
def sum16Word (w : Word) : Half := w.extractLsb' 0 16 + le16 (byteOf w 2) (byteOf w 3)

/-- VAL.CRC8 (R263). -/
def execValCrc8 (ci b : Byte) (s : State) : Result := .next (s.finish ((crc8Step ci b).setWidth 32))

/-- VAL.SUM16 (R264). -/
def execValSum16 (w : Word) (s : State) : Result := .next (s.finish ((sum16Word w).setWidth 32))

end Sys2Proof.Machine
end

