-- ==== Sys2Proof/Machine/Crsf.lean ====
section
/-! DEFINITION. The CRSF decoder unit (spec/41_crsf.md R171 to R184, spec/46_decoder_interface.md R330 to R334). -/

namespace Sys2Proof.Machine

/-- The byte at index 1 (R174): a length outside 2..62 abandons the frame, else TARGET <- b + 2 and the byte is stored. -/
def crsfLength (u : CrsfUnit) (b : Byte) : CrsfUnit :=
  if b < crsfLenMin ∨ crsfLenMax < b then { u with dec := { u.dec with idx := 0 } }
  else { u with target := b + 2, dec := { u.dec with work := u.dec.work.write 1 b, idx := 2 } }

/-- Type and payload bytes, and completion (R175, R176). The Bool is FEED's result. -/
def crsfPayload (u : CrsfUnit) (b : Byte) : Except Fault (CrsfUnit × Bool) :=
  match u.dec.store crsfBuf b with
  | .error e => .error e
  | .ok d =>
    if d.idx = u.target then
      match d.publish crsfBuf u.target with
      | .error e => .error e
      | .ok d' => .ok ({ u with dec := { d' with idx := 0 } }, true)
    else .ok ({ u with dec := d }, false)

/-- CRSF.FEED on the unit (R171): timeout, then the byte by IDX. -/
def crsfFeed (u : CrsfUnit) (b : Byte) (now : Word) : Except Fault (CrsfUnit × Bool) :=
  let u' := { u with dec := u.dec.resync now crsfBudgetUs }
  if u'.dec.idx = 0 then
    if b = crsfSyncA ∨ b = crsfSyncB then .ok ({ u' with dec := u'.dec.accept b now }, false)
    else .ok ({ u' with dec := u'.dec.reject }, false)
  else if u'.dec.idx = 1 then .ok (crsfLength u' b, false)
  else crsfPayload u' b

/-- The 22 payload bytes f[3..24] of an RC-channels frame (R181). -/
def crsfChannels (f : Memory) : Vector Half crsfChCount := Vector.ofFn (fun i => packedChannel (f.bytes 3 22) i.val)

/-- CRSF.UNPACK on the unit (R180). An SLEN beyond the buffer, which no reachable state has, would read outside it. -/
def crsfUnpack (u : CrsfUnit) : Except Fault (CrsfUnit × Bool) :=
  if u.dec.empty then .ok (u, false)
  else if crsfBuf < u.dec.slen.toNat then .error .outsideBuffer
  else
    let f := u.dec.stable
    let u' := { u with dec := { u.dec with empty := true } }
    if !crsfFrameOk f u.dec.slen.toNat then .ok (u', false)
    else if f.read 2 ≠ crsfTypeRc ∨ u.dec.slen.toNat ≠ crsfRcLen + 2 then .ok (u', false)
    else .ok ({ u' with ch := crsfChannels f }, true)

/-- The register a CRSF.STATUS selector names (10_state.md R39). -/
def crsfStatusValue (u : CrsfUnit) (sel : Byte) : Option Word :=
  if sel = 0 then some u.status
  else if sel = 1 then some u.dec.dropped
  else if sel = 3 then some u.dec.rxcount
  else none

/-- The end of a CRSF.FEED or CRSF.UNPACK: its new unit and its boolean result. -/
def State.endCrsf (s : State) : Except Fault (CrsfUnit × Bool) → Result
  | .error e => .fault e
  | .ok (u, r) => .next ({ s with crsf := u }.finish (boolWord r))

/-- CRSF.FEED (R171). -/
def execCrsfFeed (b : Byte) (s : State) : Result := s.endCrsf (crsfFeed s.crsf b s.env.timeUs)

/-- CRSF.UNPACK (R180). -/
def execCrsfUnpack (s : State) : Result := s.endCrsf (crsfUnpack s.crsf)

/-- CRSF.CHRAW (R330). -/
def execCrsfChraw (i : Byte) (s : State) : Result := .next (s.finish (channelRaw s.crsf.ch i))

/-- CRSF.CHPWM (R331). -/
def execCrsfChpwm (i : Byte) (s : State) : Result :=
  .next (s.finish (match channelAt s.crsf.ch i with | some v => crsfPwmOf v | none => channelLow))

/-- CRSF.STATUS (R332). -/
def execCrsfStatus (sel : Byte) (s : State) : Result := .next (s.readStatus (crsfStatusValue s.crsf sel))

/-- CRSF.TAKE (R333). -/
def execCrsfTake (s : State) : Result := .next (s.take .crsf)

/-- CRSF.WAIT (R334). -/
def execCrsfWait (t : WaitMode) (s : State) : Result := .next (s.wait .crsf t)

end Sys2Proof.Machine
end

