-- ==== Sys2Proof/Machine/Ibus.lean ====
section
/-! DEFINITION. The IBUS decoder unit (spec/43_ibus.md R231 to R245, spec/46_decoder_interface.md R350 to R354). -/

namespace Sys2Proof.Machine

/-- Model detection (R232): the latched registers a first byte selects, or none for a rejected byte. The IA6B test comes
first. -/
def ibusDetect (u : IbusUnit) (b : Byte) : Option IbusUnit :=
  if b = ibusSyncIa6b ∨ b = ibusSyncTelemetry then
    some { u with model := .ia6b, offset := ibusOffsetIa6b, size := b, seed := ibusSeedIa6b }
  else if b = ibusSyncIa6 then
    some { u with model := .ia6, offset := ibusOffsetIa6, size := ibusFrameIa6, seed := ibusSeedIa6 }
  else none

/-- Accumulation and completion (R234, R235, R236). The Bool is FEED's result. -/
def ibusData (u : IbusUnit) (b : Byte) : Except Fault (IbusUnit × Bool) :=
  match u.dec.store ibusBuf b with
  | .error e => .error e
  | .ok d =>
    if d.idx = u.size then
      if u.size = 4 then .ok ({ u with dec := { d with idx := 0 } }, false)
      else
        match d.publish ibusBuf u.size with
        | .error e => .error e
        | .ok d' => .ok ({ u with dec := { d' with idx := 0 }, soffset := u.offset, sseed := u.seed }, true)
    else .ok ({ u with dec := d }, false)

/-- IBUS.FEED on the unit (R231): timeout, then the byte by IDX. -/
def ibusFeed (u : IbusUnit) (b : Byte) (now : Word) : Except Fault (IbusUnit × Bool) :=
  let u' := { u with dec := u.dec.resync now ibusBudgetUs }
  if u'.dec.idx = 0 then
    match ibusDetect u' b with
    | some v => .ok ({ v with dec := v.dec.accept b now }, false)
    | none => .ok ({ u' with dec := u'.dec.reject }, false)
  else ibusData u' b

/-- Base channel i (R241): `f[o+2i] | ((f[o+2i+1] & 0x0F) << 8)`. -/
def ibusBase (f : Memory) (o i : Nat) : Half :=
  le16 (f.read (o + 2 * i)) (f.read (o + 2 * i + 1) &&& 0x0F)

/-- Extension channel 14 + k (R242): `(f[p]>>4) | (f[p+2] & 0xF0) | ((f[p+4] & 0xF0) << 4)` with p = o + 1 + 6k. -/
def ibusExtension (f : Memory) (o k : Nat) : Half :=
  (f.read (o + 1 + 6 * k) >>> 4).setWidth 16
    ||| (f.read (o + 1 + 6 * k + 2) &&& 0xF0).setWidth 16
    ||| ((f.read (o + 1 + 6 * k + 4) &&& 0xF0).setWidth 16 <<< 4)

/-- The channels of a frame whose slots begin at `o` (R240). -/
def ibusChannels (f : Memory) (o : Nat) : Vector Half ibusChCount :=
  Vector.ofFn (fun i => if i.val < ibusSlots then ibusBase f o i.val else ibusExtension f o (i.val - ibusSlots))

/-- IBUS.UNPACK on the unit (R240). An SLEN beyond the buffer, which no reachable state has, would read outside it where the
frame check reads at all (R266). -/
def ibusUnpack (u : IbusUnit) : Except Fault (IbusUnit × Bool) :=
  if u.dec.empty then .ok (u, false)
  else if ibusBuf < u.dec.slen.toNat ∧ u.soffset.toNat + 30 ≤ u.dec.slen.toNat then .error .outsideBuffer
  else
    let f := u.dec.stable
    let u' := { u with dec := { u.dec with empty := true } }
    if !ibusFrameOk f u.dec.slen.toNat u.soffset.toNat u.sseed then .ok (u', false)
    else .ok ({ u' with ch := ibusChannels f u.soffset.toNat }, true)

/-- IBUS.GETMODEL (R245): MODEL | (OFFSET << 8). -/
def ibusModelWord (u : IbusUnit) : Word := (modelBits u.model).setWidth 32 ||| (u.offset.setWidth 32 <<< 8)

/-- The register an IBUS.STATUS selector names (10_state.md R39). -/
def ibusStatusValue (u : IbusUnit) (sel : Byte) : Option Word :=
  if sel = 0 then some u.status
  else if sel = 1 then some u.dec.dropped
  else if sel = 3 then some u.dec.rxcount
  else none

/-- The end of an IBUS.FEED or IBUS.UNPACK: its new unit and its boolean result. -/
def State.endIbus (s : State) : Except Fault (IbusUnit × Bool) → Result
  | .error e => .fault e
  | .ok (u, r) => .next ({ s with ibus := u }.finish (boolWord r))

/-- IBUS.FEED (R231). -/
def execIbusFeed (b : Byte) (s : State) : Result := s.endIbus (ibusFeed s.ibus b s.env.timeUs)

/-- IBUS.UNPACK (R240). -/
def execIbusUnpack (s : State) : Result := s.endIbus (ibusUnpack s.ibus)

/-- IBUS.CHRAW (R350). -/
def execIbusChraw (i : Byte) (s : State) : Result := .next (s.finish (channelRaw s.ibus.ch i))

/-- IBUS.CHPWM (R351): the identity map. -/
def execIbusChpwm (i : Byte) (s : State) : Result := .next (s.finish (channelRaw s.ibus.ch i))

/-- IBUS.STATUS (R352). -/
def execIbusStatus (sel : Byte) (s : State) : Result := .next (s.readStatus (ibusStatusValue s.ibus sel))

/-- IBUS.TAKE (R353). -/
def execIbusTake (s : State) : Result := .next (s.take .ibus)

/-- IBUS.WAIT (R354). -/
def execIbusWait (t : WaitMode) (s : State) : Result := .next (s.wait .ibus t)

/-- IBUS.GETMODEL (R245). -/
def execIbusGetmodel (s : State) : Result := .next (s.finish (ibusModelWord s.ibus))

end Sys2Proof.Machine
end

