-- ==== Sys2Proof/Machine/Peer.lean ====
section
/-! DEFINITION. The PeerTransceiver (spec/45_peer_transceiver.md R280 to R308). -/

namespace Sys2Proof.Machine

/-! ## Setup commands -/

/-- The fields a setup command writes in its slot (R285, R287, D39): REG, CHAN, ENC, CAP and LEN. -/
def Slot.setup (k : Slot) (enc : Bool) (ch : Byte) (cap : Half) : Slot :=
  { k with reg := true, chan := ch, enc := enc, cap := cap, len := 0 }

/-- PT.SETUP_PRIMARY (R285). -/
def ptSetupPrimary (enc : Bool) (ch : Byte) (cap : Half) (s : State) : State :=
  if !capOk cap then s.failWith .arg
  else { s with pt := { s.pt with pri := s.pt.pri.setup enc ch cap } }.finish 0

/-- An address no peer may be given (R286, R287): the broadcast and the unset address. -/
def forbiddenAddr (a : Addr) : Bool := a = bcastAddr || a = zeroAddr

/-- PT.SET_PRIMARY_ADDR (R286): FAIL is checked before ARG (60_exceptions.md R412). -/
def ptSetPrimaryAddr (a : Addr) (s : State) : State :=
  if s.pt.pri.aset then s.failWith .fail
  else if forbiddenAddr a then s.failWith .arg
  else if s.pt.sec.aset ∧ a = s.pt.sec.addr then s.failWith .arg
  else { s with pt := { s.pt with pri := { s.pt.pri with addr := a, aset := true } } }.finish 0

/-- The address a secondary slot is given (R287): `a` with ASET = 1, or ZERO_ADDR with ASET = 0 when A = 0. -/
def Slot.setAddr (k : Slot) : Option Addr → Slot
  | some a => { k with addr := a, aset := true }
  | none => { k with addr := zeroAddr, aset := false }

/-- The address operand PT.ADD_SECONDARY refuses (R287): forbidden, or the bound primary's. -/
def secondaryAddrRefused (t : Transceiver) : Option Addr → Bool
  | some a => forbiddenAddr a || (t.pri.aset && a = t.pri.addr)
  | none => false

/-- PT.ADD_SECONDARY (R287). -/
def ptAddSecondary (enc : Bool) (ch : Byte) (cap : Half) (a : Option Addr) (s : State) : State :=
  if !capOk cap then s.failWith .arg
  else if secondaryAddrRefused s.pt a then s.failWith .arg
  else { s with pt := { s.pt with sec := (s.pt.sec.setup enc ch cap).setAddr a } }.finish 0

/-! ## Receive sequencer -/

/-- Binding (R291): the primary is set up and unbound, and the source is neither ZERO_ADDR nor the secondary's address. -/
def Transceiver.bind (t : Transceiver) (src : Addr) : Transceiver :=
  if t.pri.reg ∧ !t.pri.aset ∧ src ≠ zeroAddr ∧ src ≠ t.sec.addr then
    { t with pri := { t.pri with addr := src, aset := true } }
  else t

/-- A slot that takes frames from this sender (R292). -/
def Slot.hears (k : Slot) (src : Addr) : Bool := k.reg && k.aset && k.addr = src

/-- The copy of a delivered frame (R293): min(L, CAP) bytes to BUF, LEN set to that count. A capacity beyond PT_CAP_MAX, which no
reachable state has, would write outside the buffer. -/
def Slot.receive (k : Slot) (data : List Byte) : Except Fault Slot :=
  let n := min data.length k.cap.toNat
  if n ≤ ptCapMax then
    .ok { k with buf := k.buf.writeBytes 0 (data.take n), len := BitVec.ofNat 16 n }
  else .error .outsideBuffer

/-- Delivery to the primary (R293 to R295): the copy, the instrumentation and READY[PRI]. -/
def Transceiver.deliverPri (t : Transceiver) (data : List Byte) (tick : Word) : Except Fault Transceiver :=
  match t.pri.receive data with
  | .error e => .error e
  | .ok k =>
    .ok { t with pri := k, rxcount := t.rxcount + 1, tickDelta := tick - t.lastTick, lastTick := tick, readyPri := true }

/-- Delivery to the secondary (R293, R295): the copy and READY[SEC]. -/
def Transceiver.deliverSec (t : Transceiver) (data : List Byte) : Except Fault Transceiver :=
  match t.sec.receive data with
  | .error e => .error e
  | .ok k => .ok { t with sec := k, readySec := true }

/-- PT.RX on the transceiver (R290): a broadcast source is discarded first, then binding, lookup and delivery. The second
component is the result: the slot number, or 0 for a discarded frame. -/
def ptReceive (t : Transceiver) (src : Addr) (data : List Byte) (tick : Word) : Except Fault (Transceiver × Word) :=
  if src = bcastAddr then .ok (t, 0)
  else
    let t' := t.bind src
    if t'.pri.hears src then (t'.deliverPri data tick).map (fun t'' => (t'', 1))
    else if t'.sec.hears src then (t'.deliverSec data).map (fun t'' => (t'', 2))
    else .ok (t', 0)

/-- The end of a PT.RX. -/
def State.endRx (s : State) : Except Fault (Transceiver × Word) → Result
  | .error e => .fault e
  | .ok (t, r) => .next ({ s with pt := t }.finish r)

/-! ## Transmit commands -/

/-- The destination of a send (R296, R297): BCAST_ADDR for the broadcast slot, else the slot's address. -/
def sendDest (t : Transceiver) : PeerId → Addr
  | .bcast => bcastAddr
  | .pri => t.pri.addr
  | .sec => t.sec.addr
  | .rsv => t.rsv.addr

/-- PRI and SEC need a set address to be sent to (R296). -/
def sendUnbound (t : Transceiver) : PeerId → Bool
  | .bcast => false
  | .pri => !t.pri.aset
  | .sec => !t.sec.aset
  | .rsv => false

/-- PT.SEND (R296), its checks in the order of 60_exceptions.md R412. -/
def ptSend (p : PeerId) (isNull : Bool) (data : List Byte) (s : State) : State :=
  if isNull ∨ data.length = 0 then s.failWith .arg
  else if p = .rsv then s.failWith .arg
  else if Config.radioMaxLen < data.length then s.failWith .arg
  else if sendUnbound s.pt p then s.failWith .unbound
  else
    let s' := s.emit (sendDest s.pt p) data
    if s.env.radioOk then s'.finish 0 else s'.failWith .radio

/-- The start step of PT.BCAST_ID (R298). The delay DLY is timing only (70_reset_and_hazards.md R461, log 8). -/
def ptBcastIdStart (n : Byte) (s : State) : State :=
  if n = 0 then s.finish 0
  else { s with pt := { s.pt with bidActive := true, bidLeft := n } }.proceed

/-- One send step of PT.BCAST_ID (R298): broadcast the bind packet (R299), abort on failure, end after the last send. -/
def ptBcastIdSend (s : State) : State :=
  let s' := s.emit bcastAddr (Config.bindPacket Config.myChannel Config.myAddr)
  if !s.env.radioOk then
    { s' with pt := { s'.pt with bidActive := false, bidLeft := 0 } }.failWith .radio
  else if s.pt.bidLeft - 1 = 0 then
    { s' with pt := { s'.pt with bidActive := false, bidLeft := 0 } }.finish 0
  else { s' with pt := { s'.pt with bidLeft := s.pt.bidLeft - 1 } }.proceed

/-! ## Readout commands -/

/-- A readout command on a slot with no receive buffer fails with ARG (R282). -/
def State.onReceiver (s : State) (p : PeerId) (t : State) : State := if receives p then t else s.failWith .arg

/-- PT.READBUF on an accepted slot (R302). -/
def ptReadByte (k : Slot) (x : Byte) (s : State) : State :=
  if k.cap.toNat ≤ x.toNat then s.failWith .arg else s.finish ((k.buf.read x.toNat).setWidth 32)

/-! ## The meanings -/

/-- PT.SETUP_PRIMARY (R285). -/
def execPtSetupPrimary (enc : Bool) (ch : Byte) (cap : Half) (s : State) : Result := .next (ptSetupPrimary enc ch cap s)

/-- PT.SET_PRIMARY_ADDR (R286). -/
def execPtSetPrimaryAddr (a : Addr) (s : State) : Result := .next (ptSetPrimaryAddr a s)

/-- PT.ADD_SECONDARY (R287). -/
def execPtAddSecondary (enc : Bool) (ch : Byte) (cap : Half) (a : Option Addr) (s : State) : Result :=
  .next (ptAddSecondary enc ch cap a s)

/-- PT.RX (R290). -/
def execPtRx (src : Addr) (data : List Byte) (s : State) : Result := s.endRx (ptReceive s.pt src data s.env.tick)

/-- PT.SEND (R296). -/
def execPtSend (p : PeerId) (isNull : Bool) (data : List Byte) (s : State) : Result := .next (ptSend p isNull data s)

/-- PT.BCAST_ID (R298): its start step; the sends are steps of the consumer (Machine/Sequencer.lean). -/
def execPtBcastId (n : Byte) (_dly : Half) (s : State) : Result := .next (ptBcastIdStart n s)

/-- PT.GET_MY_ID (R300). -/
def execPtGetMyId (s : State) : Result := .next (s.finishBytes 0 (addrBytes Config.myAddr))

/-- PT.GET_PRIMARY_ID (R301). -/
def execPtGetPrimaryId (s : State) : Result :=
  .next (s.finishBytes (boolWord s.pt.pri.aset) (addrBytes s.pt.pri.addr))

/-- PT.TAKE (R303). -/
def execPtTake (p : PeerId) (s : State) : Result := .next (s.onReceiver p (s.take (.peer p)))

/-- PT.WAIT (R304). -/
def execPtWait (p : PeerId) (t : WaitMode) (s : State) : Result := .next (s.onReceiver p (s.wait (.peer p) t))

/-- PT.READBUF (R302). -/
def execPtReadbuf (p : PeerId) (x : Byte) (s : State) : Result :=
  .next (s.onReceiver p (ptReadByte (s.pt.slot p) x s))

/-- PT.GETLEN (R305). -/
def execPtGetlen (p : PeerId) (s : State) : Result :=
  .next (s.onReceiver p (s.finish ((s.pt.slot p).len.setWidth 32)))

/-- PT.RXCOUNT (R306). -/
def execPtRxcount (s : State) : Result := .next (s.finish s.pt.rxcount)

/-- PT.TICKDELTA (R307). -/
def execPtTickdelta (s : State) : Result := .next (s.finish s.pt.tickDelta)

end Sys2Proof.Machine
end

