-- ==== Sys2Proof/Machine/Sbus.lean ====
section
/-! DEFINITION. The SBUS decoder unit (spec/42_sbus.md R201 to R213, spec/46_decoder_interface.md R340 to R344). -/

namespace Sys2Proof.Machine

/-- Accumulation, end-byte check and publish (R204, R205). The Bool is FEED's result. -/
def sbusData (u : SbusUnit) (b : Byte) : Except Fault (SbusUnit × Bool) :=
  match u.dec.store sbusFrame b with
  | .error e => .error e
  | .ok d =>
    if d.idx = BitVec.ofNat 8 sbusFrame then
      if d.work.read 24 ≠ sbusEnd then
        .ok ({ u with dec := { d with idx := 0 }, errors := u.errors + 1 }, false)
      else
        match d.publish sbusFrame (BitVec.ofNat 8 sbusFrame) with
        | .error e => .error e
        | .ok d' => .ok ({ u with dec := { d' with idx := 0 } }, true)
    else .ok ({ u with dec := d }, false)

/-- SBUS.FEED on the unit (R201): timeout, then the byte by IDX. -/
def sbusFeed (u : SbusUnit) (b : Byte) (now : Word) : Except Fault (SbusUnit × Bool) :=
  let u' := { u with dec := u.dec.resync now sbusBudgetUs }
  if u'.dec.idx = 0 then
    if b = sbusStart then .ok ({ u' with dec := u'.dec.accept b now }, false)
    else .ok ({ u' with dec := u'.dec.reject }, false)
  else sbusData u' b

/-- The channels of a frame: fields of bytes 1..22 (R211), then flag bits 0 and 1 of byte 23 (R212). -/
def sbusChannels (f : Memory) : Vector Half sbusChCount :=
  Vector.ofFn (fun i =>
    if i.val < sbusDataChannels then packedChannel (f.bytes 1 22) i.val
    else if i.val = sbusDataChannels then (BitVec.ofBool ((f.read 23).getLsbD 0)).setWidth 16
    else (BitVec.ofBool ((f.read 23).getLsbD 1)).setWidth 16)

/-- SBUS.UNPACK on the unit (R210). -/
def sbusUnpack (u : SbusUnit) : SbusUnit × Bool :=
  if u.dec.empty then (u, false)
  else ({ u with dec := { u.dec with empty := true }, ch := sbusChannels u.dec.stable }, true)

/-- The PWM value of a channel (R341). -/
def sbusPwm (ch : Vector Half sbusChCount) (i : Byte) : Word :=
  match channelAt ch i with
  | none => channelLow
  | some v => if i.toNat < sbusDataChannels then sbusPwmOf v else sbusFlagPwmOf v

/-- The register an SBUS.STATUS selector names (10_state.md R39). -/
def sbusStatusValue (u : SbusUnit) (sel : Byte) : Option Word :=
  if sel = 0 then some u.status
  else if sel = 1 then some u.dec.dropped
  else if sel = 2 then some u.errors
  else if sel = 3 then some u.dec.rxcount
  else none

/-- The end of an SBUS.FEED: its new unit and its boolean result. -/
def State.endSbus (s : State) : Except Fault (SbusUnit × Bool) → Result
  | .error e => .fault e
  | .ok (u, r) => .next ({ s with sbus := u }.finish (boolWord r))

/-- SBUS.FEED (R201). -/
def execSbusFeed (b : Byte) (s : State) : Result := s.endSbus (sbusFeed s.sbus b s.env.timeUs)

/-- SBUS.UNPACK (R210). -/
def execSbusUnpack (s : State) : Result := s.endSbus (.ok (sbusUnpack s.sbus))

/-- SBUS.CHRAW (R340). -/
def execSbusChraw (i : Byte) (s : State) : Result := .next (s.finish (channelRaw s.sbus.ch i))

/-- SBUS.CHPWM (R341). -/
def execSbusChpwm (i : Byte) (s : State) : Result := .next (s.finish (sbusPwm s.sbus.ch i))

/-- SBUS.STATUS (R342). -/
def execSbusStatus (sel : Byte) (s : State) : Result := .next (s.readStatus (sbusStatusValue s.sbus sel))

/-- SBUS.TAKE (R343). -/
def execSbusTake (s : State) : Result := .next (s.take .sbus)

/-- SBUS.WAIT (R344). -/
def execSbusWait (t : WaitMode) (s : State) : Result := .next (s.wait .sbus t)

end Sys2Proof.Machine
end

