-- ==== Sys2Proof/Machine/Dispatch.lean ====
section
/-! DEFINITION. The meaning of every command of spec/opcode_table.json, one arm per constructor of `Instr`. -/

namespace Sys2Proof.Machine

def exec (i : Instr) (s : State) : Host.Outcome State Fault Refusal :=
  match i with
  | .crsfFeed b => Sys2Proof.Machine.execCrsfFeed b s
  | .crsfUnpack => Sys2Proof.Machine.execCrsfUnpack s
  | .crsfChraw n => Sys2Proof.Machine.execCrsfChraw n s
  | .crsfChpwm n => Sys2Proof.Machine.execCrsfChpwm n s
  | .crsfStatus sel => Sys2Proof.Machine.execCrsfStatus sel s
  | .crsfTake => Sys2Proof.Machine.execCrsfTake s
  | .crsfWait t => Sys2Proof.Machine.execCrsfWait t s
  | .sbusFeed b => Sys2Proof.Machine.execSbusFeed b s
  | .sbusUnpack => Sys2Proof.Machine.execSbusUnpack s
  | .sbusChraw n => Sys2Proof.Machine.execSbusChraw n s
  | .sbusChpwm n => Sys2Proof.Machine.execSbusChpwm n s
  | .sbusStatus sel => Sys2Proof.Machine.execSbusStatus sel s
  | .sbusTake => Sys2Proof.Machine.execSbusTake s
  | .sbusWait t => Sys2Proof.Machine.execSbusWait t s
  | .ibusFeed b => Sys2Proof.Machine.execIbusFeed b s
  | .ibusUnpack => Sys2Proof.Machine.execIbusUnpack s
  | .ibusChraw n => Sys2Proof.Machine.execIbusChraw n s
  | .ibusChpwm n => Sys2Proof.Machine.execIbusChpwm n s
  | .ibusStatus sel => Sys2Proof.Machine.execIbusStatus sel s
  | .ibusTake => Sys2Proof.Machine.execIbusTake s
  | .ibusWait t => Sys2Proof.Machine.execIbusWait t s
  | .ibusGetmodel => Sys2Proof.Machine.execIbusGetmodel s
  | .valCrc8 ci b => Sys2Proof.Machine.execValCrc8 ci b s
  | .valSum16 w => Sys2Proof.Machine.execValSum16 w s
  | .fpcDecode w => Sys2Proof.Machine.execFpcDecode w s
  | .fpcEncode q => Sys2Proof.Machine.execFpcEncode q s
  | .ptSetupPrimary enc ch cap => Sys2Proof.Machine.execPtSetupPrimary enc ch cap s
  | .ptSetPrimaryAddr a => Sys2Proof.Machine.execPtSetPrimaryAddr a s
  | .ptAddSecondary enc ch cap a => Sys2Proof.Machine.execPtAddSecondary enc ch cap a s
  | .ptRx src data => Sys2Proof.Machine.execPtRx src data s
  | .ptSend p isNull data => Sys2Proof.Machine.execPtSend p isNull data s
  | .ptBcastId n dly => Sys2Proof.Machine.execPtBcastId n dly s
  | .ptGetMyId => Sys2Proof.Machine.execPtGetMyId s
  | .ptGetPrimaryId => Sys2Proof.Machine.execPtGetPrimaryId s
  | .ptTake p => Sys2Proof.Machine.execPtTake p s
  | .ptWait p t => Sys2Proof.Machine.execPtWait p t s
  | .ptReadbuf p x => Sys2Proof.Machine.execPtReadbuf p x s
  | .ptGetlen p => Sys2Proof.Machine.execPtGetlen p s
  | .ptRxcount => Sys2Proof.Machine.execPtRxcount s
  | .ptTickdelta => Sys2Proof.Machine.execPtTickdelta s

end Sys2Proof.Machine
end

