-- ==== Sys2Proof/Machine/Sequencer.lean ====
section
/-! DEFINITION. How an agent takes its next step: what each port presents and how it is consumed (spec/00_scope.md R6, R7,
spec/60_exceptions.md R404 to R408). -/

namespace Sys2Proof.Machine

/-- The state a turn begins with (R405): the turn is taken from the schedule, ENV's values are sampled, and no result has been
returned yet. -/
def State.beginTurn (s : State) (t : Turn) (rest : List Turn) : State :=
  { s with turns := rest, env := t.env, reply := none }

/-- The command a blocked WAIT is (R425). -/
def PendingWait.instr (w : PendingWait) : Instr :=
  match w.target with
  | .crsf => .crsfWait w.mode
  | .sbus => .sbusWait w.mode
  | .ibus => .ibusWait w.mode
  | .peer p => .ptWait p w.mode

/-- The agent that issues a command (R406): P_u its unit's FEED, unless the consumer feeds that unit inline at this step; P_RADIO
PT.RX; the consumer every other command. -/
def issuer (d : Inline) : Instr → Agent
  | .crsfFeed _ => if d.crsf then .consumer else .pCrsf
  | .sbusFeed _ => if d.sbus then .consumer else .pSbus
  | .ibusFeed _ => if d.ibus then .consumer else .pIbus
  | .ptRx _ _ => .pRadio
  | .crsfUnpack | .crsfChraw _ | .crsfChpwm _ | .crsfStatus _ | .crsfTake | .crsfWait _ => .consumer
  | .sbusUnpack | .sbusChraw _ | .sbusChpwm _ | .sbusStatus _ | .sbusTake | .sbusWait _ => .consumer
  | .ibusUnpack | .ibusChraw _ | .ibusChpwm _ | .ibusStatus _ | .ibusTake | .ibusWait _ | .ibusGetmodel => .consumer
  | .valCrc8 _ _ | .valSum16 _ | .fpcDecode _ | .fpcEncode _ => .consumer
  | .ptSetupPrimary _ _ _ | .ptSetPrimaryAddr _ | .ptAddSecondary _ _ _ _ => .consumer
  | .ptSend _ _ _ | .ptBcastId _ _ | .ptGetMyId | .ptGetPrimaryId => .consumer
  | .ptTake _ | .ptWait _ _ | .ptReadbuf _ _ | .ptGetlen _ | .ptRxcount | .ptTickdelta => .consumer

/-- An agent takes the command at the head of CMD (30_encoding.md R100): the one R406 names executes it, and at any other agent's
turn it stays there (log 13). A word that spells no command is refused with ILLEGAL at the consumer's turn and its data bytes are
consumed (R111); half a command waits for the rest (log 5). -/
def stepCommand (a : Agent) (s : State) : Result :=
  match decode s.cmd with
  | .instr i rest => if issuer s.env.inline i = a then exec i { s with cmd := rest } else .next s
  | .illegal _ rest => if a = .consumer then .next ({ s with cmd := rest }.failWith .illegal) else .next s
  | .incomplete => .next s

/-- P_CRSF's step (R404): a byte of BYTE_IN[CRSF] is one CRSF.FEED, and waits there while the consumer is the unit's only producer
(R406). With nothing presented, P_CRSF's command of CMD. -/
def stepCrsfByte (s : State) : Result :=
  match s.byteInCrsf with
  | [] => stepCommand .pCrsf s
  | b :: bs => if s.env.inline.crsf then .next s else exec (.crsfFeed b) { s with byteInCrsf := bs }

/-- As `stepCrsfByte`, for BYTE_IN[SBUS]. -/
def stepSbusByte (s : State) : Result :=
  match s.byteInSbus with
  | [] => stepCommand .pSbus s
  | b :: bs => if s.env.inline.sbus then .next s else exec (.sbusFeed b) { s with byteInSbus := bs }

/-- As `stepCrsfByte`, for BYTE_IN[IBUS]. -/
def stepIbusByte (s : State) : Result :=
  match s.byteInIbus with
  | [] => stepCommand .pIbus s
  | b :: bs => if s.env.inline.ibus then .next s else exec (.ibusFeed b) { s with byteInIbus := bs }

/-- P_RADIO's step (R404): a frame of RADIO_RX is one PT.RX. With nothing presented, P_RADIO's command of CMD. -/
def stepRadioFrame (s : State) : Result :=
  match s.radioRx with
  | [] => stepCommand .pRadio s
  | f :: fs => exec (.ptRx f.src f.data) { s with radioRx := fs }

/-- The consumer's step: the next send of a PT.BCAST_ID in progress (R298), else the WAIT it is blocked at (R407), else its
next command. The consumer is sequential (R298 corner cases). -/
def stepConsumer (s : State) : Result :=
  if s.pt.bidActive then .next (ptBcastIdSend s)
  else
    match s.waiting with
    | some w => exec w.instr { s with waiting := none }
    | none => stepCommand .consumer s

/-- The step of the agent whose turn it is (R405). -/
def stepAgent (a : Agent) (s : State) : Result :=
  match a with
  | .pCrsf => stepCrsfByte s
  | .pSbus => stepSbusByte s
  | .pIbus => stepIbusByte s
  | .pRadio => stepRadioFrame s
  | .consumer => stepConsumer s

/-- An agent whose very next step takes a command of CMD: nothing is presented on its own port, or it is in no other command. -/
def State.idle (s : State) : Agent → State
  | .pCrsf => { s with byteInCrsf := [] }
  | .pSbus => { s with byteInSbus := [] }
  | .pIbus => { s with byteInIbus := [] }
  | .pRadio => { s with radioRx := [] }
  | .consumer => { s with waiting := none, pt := { s.pt with bidActive := false, bidLeft := 0 } }

/-- The agent that takes the command these bytes spell; the consumer, where they spell none. -/
def takerOf (d : Inline) (bytes : List Byte) : Agent :=
  match decode bytes with
  | .instr i _ => issuer d i
  | .illegal _ _ => .consumer
  | .incomplete => .consumer

/-- The state in which the very next step reads this byte string from CMD: the bytes stand first on CMD, and the agent that issues
the command they spell has the next turn, with ENV's present values, and is idle. -/
def State.present (s : State) (bytes : List Byte) : State :=
  let a := takerOf s.env.inline bytes
  { s.idle a with cmd := bytes ++ s.cmd, turns := ⟨a, s.env⟩ :: s.turns }

end Sys2Proof.Machine
end

