-- ==== Sys2Proof/Machine/Step.lean ====
section
/-! DEFINITION. The step of the block: one atomic step of the agent whose turn it is (spec/60_exceptions.md R405). -/

namespace Sys2Proof.Machine

/-- One step. With no turn left the block stands still: it does nothing of its own (R404, R421, log 3). -/
def step (s : State) : Host.Outcome State Fault Refusal :=
  match s.turns with
  | [] => .next s
  | t :: rest => stepAgent t.agent (s.beginTurn t rest)

/-- `s` with the command whose bits are `w` (bit 0 the least significant bit of its word, 0 above `nbits`) where the next step
reads its command (log 3). -/
def State.withFetchWord (s : State) (nbits w : Nat) : State := s.present (tableBytes nbits w)

end Sys2Proof.Machine
end

