-- ==== Sys2Proof/Safety.lean ====
section
/-! DEFINITION. What the spec says holds in every reachable state: register ranges (spec/10_state.md R32, R34 to R37), published
frame shapes (spec/44_validators.md R262, R266), the peer table's invariants (spec/45_peer_transceiver.md R308). A safe run is one
whose states all meet `Inv`; from such a state no step faults and none is refused. -/

namespace Sys2Proof.Machine

/-- A decoder unit with buffers of `size` bytes: IDX below the buffer size (R32, R34), buffers in canonical form and in range
(R80). -/
structure DecoderInv (size : Nat) (d : Decoder) : Prop where
  idxBelow : d.idx.toNat < size
  workWf : d.work.wf = true
  workBelow : d.work.below size = true
  stableWf : d.stable.wf = true
  stableBelow : d.stable.below size = true

/-- The CRSF unit: TARGET is 4..64 once set and above IDX while a payload is being collected (R35, R174), a published frame has
4..64 bytes (R262), CH holds 11-bit values (R35). -/
structure CrsfInv (u : CrsfUnit) : Prop where
  dec : DecoderInv crsfBuf u.dec
  target : u.target = 0 ∨ (4 ≤ u.target.toNat ∧ u.target.toNat ≤ crsfBuf)
  collecting : 2 ≤ u.dec.idx.toNat → u.dec.idx.toNat < u.target.toNat
  slen : u.dec.slen.toNat ≤ crsfBuf
  published : u.dec.empty = false → 4 ≤ u.dec.slen.toNat
  channels : ∀ i : Fin crsfChCount, u.ch[i].toNat < 2 ^ 11

/-- The SBUS unit: a published frame has 25 bytes (R205), CH holds 11-bit values and two bits (R36). -/
structure SbusInv (u : SbusUnit) : Prop where
  dec : DecoderInv sbusFrame u.dec
  slen : u.dec.slen = 0 ∨ u.dec.slen = 25
  published : u.dec.empty = false → u.dec.slen = 25
  channels : ∀ i : Fin sbusChCount, u.ch[i].toNat < (if i.val < sbusDataChannels then 2 ^ 11 else 2)

/-- The IBUS unit: the latched registers are those of one model (R37, R232), IDX is below SIZE while a frame is in progress, a
published frame is one of the two shapes of R266, CH holds 12-bit values (R37). -/
structure IbusInv (u : IbusUnit) : Prop where
  dec : DecoderInv ibusBuf u.dec
  latch :
    (u.model = .none ∧ u.offset = 0 ∧ u.size = 0 ∧ u.seed = 0 ∧ u.dec.idx = 0) ∨
    (u.model = .ia6b ∧ u.offset = 2 ∧ (u.size = 32 ∨ u.size = 4) ∧ u.seed = 0xFFFF) ∨
    (u.model = .ia6 ∧ u.offset = 1 ∧ u.size = 31 ∧ u.seed = 0)
  collecting : u.dec.idx ≠ 0 → u.dec.idx.toNat < u.size.toNat
  published :
    (u.dec.slen = 0 ∧ u.soffset = 0 ∧ u.sseed = 0 ∧ u.dec.empty = true) ∨
    (u.dec.slen = 32 ∧ u.soffset = 2 ∧ u.sseed = 0xFFFF) ∨
    (u.dec.slen = 31 ∧ u.soffset = 1 ∧ u.sseed = 0)
  channels : ∀ i : Fin ibusChCount, u.ch[i].toNat < 2 ^ 12

/-- A slot: LEN ≤ CAP ≤ PT_CAP_MAX (R308 item 2), its buffer in canonical form and in range (R80). -/
structure SlotInv (k : Slot) : Prop where
  lenCap : k.len.toNat ≤ k.cap.toNat
  capMax : k.cap.toNat ≤ ptCapMax
  bufWf : k.buf.wf = true
  bufBelow : k.buf.below ptCapMax = true

/-- A slot's address (R281, R308 item 3): ZERO_ADDR while unset, neither ZERO_ADDR nor BCAST_ADDR once set. -/
def addrConsistent (k : Slot) : Prop :=
  (k.aset = false → k.addr = zeroAddr) ∧ (k.aset = true → k.addr ≠ zeroAddr ∧ k.addr ≠ bcastAddr)

/-- The transceiver (R308): the broadcast and the reserved slot are as at reset, RXEN keeps its constant (R40), the addresses are
consistent and distinct, no announcement has sends left unless it is in progress. -/
structure TransceiverInv (t : Transceiver) : Prop where
  bcast : t.bcast = Slot.resetBcast
  rsv : t.rsv = Slot.resetOther
  pri : SlotInv t.pri
  sec : SlotInv t.sec
  priAddr : addrConsistent t.pri
  secAddr : addrConsistent t.sec
  distinct : t.pri.aset = true → t.sec.aset = true → t.pri.addr ≠ t.sec.addr
  rxen : t.pri.rxen = true ∧ t.sec.rxen = true
  announcement : t.bidActive = false ↔ t.bidLeft = 0

/-- A blocked WAIT waits for a signal that exists (R42, R282). -/
def pendingWaitOk (w : PendingWait) : Prop := ∀ p, w.target = .peer p → receives p = true

/-- The whole state. The consumer is in at most one command (R298 corner cases). -/
structure Inv (s : State) : Prop where
  crsf : CrsfInv s.crsf
  sbus : SbusInv s.sbus
  ibus : IbusInv s.ibus
  pt : TransceiverInv s.pt
  waiting : ∀ w, s.waiting = some w → pendingWaitOk w
  oneCommand : s.pt.bidActive = true → s.waiting = none

/-! ## Terms the statements use -/

/-- `fail S` (00_scope.md R12, 60_exceptions.md R409): the command ended with a status other than OK, returned some value (log 6)
and changed no state of the block. -/
def Failed (s : State) (st : Status) (s' : State) : Prop :=
  ∃ v, s' = { s with reply := some ⟨st, v, []⟩, freeCount := s.freeCount + 1 }

/-- The command belongs to the CRSF unit (30_encoding.md R110, opcodes 0x1_). -/
def isCrsf : Instr → Bool
  | .crsfFeed _ | .crsfUnpack | .crsfChraw _ | .crsfChpwm _ | .crsfStatus _ | .crsfTake | .crsfWait _ => true
  | _ => false

/-- The command belongs to the SBUS unit (opcodes 0x2_). -/
def isSbus : Instr → Bool
  | .sbusFeed _ | .sbusUnpack | .sbusChraw _ | .sbusChpwm _ | .sbusStatus _ | .sbusTake | .sbusWait _ => true
  | _ => false

/-- The command belongs to the IBUS unit (opcodes 0x3_). -/
def isIbus : Instr → Bool
  | .ibusFeed _ | .ibusUnpack | .ibusChraw _ | .ibusChpwm _ | .ibusStatus _ | .ibusTake | .ibusWait _ | .ibusGetmodel => true
  | _ => false

/-- The command belongs to the validators or the codec (opcodes 0x4_ and 0x5_). -/
def isPure : Instr → Bool
  | .valCrc8 _ _ | .valSum16 _ | .fpcDecode _ | .fpcEncode _ => true
  | _ => false

/-- The words of a row of spec/opcode_table.json: C with C &&& mask = pattern (30_encoding.md R110, R111). -/
structure OpcodeRow where
  pattern : Word
  mask    : Word

/-- The match and mask columns of spec/opcode_table.json, in its order. -/
def opcodeRows : List OpcodeRow :=
  [⟨0x10000000, 0xFFFFFF00⟩, ⟨0x11000000, 0xFFFFFFFF⟩, ⟨0x12000000, 0xFFFFFF00⟩, ⟨0x13000000, 0xFFFFFF00⟩,
   ⟨0x14000000, 0xFFFFFF00⟩, ⟨0x15000000, 0xFFFFFFFF⟩, ⟨0x16000000, 0xFFFFFFFE⟩,
   ⟨0x20000000, 0xFFFFFF00⟩, ⟨0x21000000, 0xFFFFFFFF⟩, ⟨0x22000000, 0xFFFFFF00⟩, ⟨0x23000000, 0xFFFFFF00⟩,
   ⟨0x24000000, 0xFFFFFF00⟩, ⟨0x25000000, 0xFFFFFFFF⟩, ⟨0x26000000, 0xFFFFFFFE⟩,
   ⟨0x30000000, 0xFFFFFF00⟩, ⟨0x31000000, 0xFFFFFFFF⟩, ⟨0x32000000, 0xFFFFFF00⟩, ⟨0x33000000, 0xFFFFFF00⟩,
   ⟨0x34000000, 0xFFFFFF00⟩, ⟨0x35000000, 0xFFFFFFFF⟩, ⟨0x36000000, 0xFFFFFFFE⟩, ⟨0x37000000, 0xFFFFFFFF⟩,
   ⟨0x40000000, 0xFFFF0000⟩, ⟨0x41000000, 0xFFFFFFFF⟩, ⟨0x50000000, 0xFFFFFFFF⟩, ⟨0x51000000, 0xFFFFFFFF⟩,
   ⟨0x60000000, 0xFFFEFF00⟩, ⟨0x61000000, 0xFFFFFFFF⟩, ⟨0x62000000, 0xFFFCFF00⟩, ⟨0x63000000, 0xFFFF0000⟩,
   ⟨0x64000000, 0xFF1F0000⟩, ⟨0x65000000, 0xFF000000⟩, ⟨0x66000000, 0xFFFFFFFF⟩, ⟨0x67000000, 0xFFFFFFFF⟩,
   ⟨0x68000000, 0xFFFFFCFF⟩, ⟨0x69000000, 0xFFFFFCFE⟩, ⟨0x6A000000, 0xFFFFFC00⟩, ⟨0x6B000000, 0xFFFFFCFF⟩,
   ⟨0x6C000000, 0xFFFFFFFF⟩, ⟨0x6D000000, 0xFFFFFFFF⟩]

/-- C spells a command: some row matches it (R111 from its complement). -/
def spellsCommand (c : Word) : Prop := ∃ r ∈ opcodeRows, c &&& r.mask = r.pattern

/-- The data bytes that follow a word C, by its opcode (R100, R111): 4 for W4, 6 for W6, 2 + 6·A for R, L for S, 6 + L for X. -/
def dataBytesAfter (c : Word) : Nat :=
  match c.toNat / 2 ^ 24 with
  | 0x41 => 4
  | 0x50 => 4
  | 0x51 => 4
  | 0x60 => 2
  | 0x61 => 6
  | 0x62 => 2 + 6 * (c.toNat / 2 ^ 17 % 2)
  | 0x63 => 6 + c.toNat % 2 ^ 16
  | 0x64 => c.toNat % 2 ^ 16
  | _ => 0

end Sys2Proof.Machine
end

