-- ==== Sys2Proof/Certificates/Slice0/Obligations.lean ====
section
/-! DEFINITION. What this model is claimed to do, stated for the provers. Each docstring names the rules of spec/ a statement
formalises. -/

open Sys2Proof Sys2Proof.Machine

/-! ## Encoding -/

/-- Decoding the bytes that spell a well-formed command gives it back, whatever follows them (30_encoding.md R100 to R110).
The byte order of a command word on CMD is the model's choice (log 2). -/
def Obligations.DecodeOfEncode : Prop :=
  ∀ (i : Instr) (rest : List Byte), i.wellFormed = true → decode (encode i ++ rest) = .instr i rest

/-- A byte string that decodes to a command begins with the one encoding of it: no bit of a word is dropped or has two readings
(R100 to R111).
The byte order of a command word on CMD is the model's choice (log 2). -/
def Obligations.EncodeOfDecode : Prop :=
  ∀ (bytes : List Byte) (i : Instr) (rest : List Byte),
    decode bytes = .instr i rest → i.wellFormed = true ∧ bytes = encode i ++ rest

/-- A command word with its data string decodes to a command exactly when a row of the opcode table matches it; every other word is
refused, and in both cases the data bytes its opcode's format has are consumed (R100, R110, R111).
The byte order of a command word on CMD is the model's choice (log 2). -/
def Obligations.OpcodeTableDecides : Prop :=
  ∀ (c0 c1 c2 c3 : Byte) (tail : List Byte),
    dataBytesAfter (le32 c0 c1 c2 c3) ≤ tail.length →
      (spellsCommand (le32 c0 c1 c2 c3) →
        ∃ i, decode (c0 :: c1 :: c2 :: c3 :: tail) = .instr i (tail.drop (dataBytesAfter (le32 c0 c1 c2 c3)))) ∧
      (¬ spellsCommand (le32 c0 c1 c2 c3) →
        ∃ why, decode (c0 :: c1 :: c2 :: c3 :: tail) = .illegal why (tail.drop (dataBytesAfter (le32 c0 c1 c2 c3))))

/-- Some words of 95_test_vectors.md and of the rules' examples decode to the commands they stand for.
The byte order of a command word on CMD is the model's choice (log 2). -/
def Obligations.SpecWordsDecode : Prop :=
  decodeTableWord 32 0x100000C8 = some (.crsfFeed 0xC8) ∧
  decodeTableWord 32 0x12000005 = some (.crsfChraw 5) ∧
  decodeTableWord 32 0x37000000 = some .ibusGetmodel ∧
  decodeTableWord 32 0x4000D301 = some (.valCrc8 0xD3 0x01) ∧
  decodeTableWord 64 0x05DBFFFF41000000 = some (.valSum16 0x05DBFFFF) ∧
  decodeTableWord 64 0x40490FDB50000000 = some (.fpcDecode 0x40490FDB) ∧
  decodeTableWord 48 0x000860000001 = some (.ptSetupPrimary false 1 8) ∧
  decodeTableWord 96 0x020000C40A24000462020001 = some (.ptAddSecondary false 1 4 (some ⟨0x24, 0x0A, 0xC4, 0, 0, 2⟩)) ∧
  decodeTableWord 40 0x5564400001 = some (.ptSend .pri false [0x55]) ∧
  decodeTableWord 32 0x65003214 = some (.ptBcastId 20 50) ∧
  decodeTableWord 32 0x6A000107 = some (.ptReadbuf .pri 7) ∧
  decodeTableWord 32 0x69000201 = some (.ptWait .sec .timed) ∧
  decodeTableWord 32 0x16000002 = none ∧
  decodeTableWord 32 0x60020001 = none

/-! ## The step -/

/-- On the turn of the agent that issues it, a step is exec of the command decoded from CMD, after the turn is taken, ENV's values
are sampled and the command's bytes are consumed; the consumer takes one only with no announcement in progress and no blocked WAIT,
another agent only with nothing presented on its own port. On the turn of any agent but the one 60_exceptions.md R406 names, no
command of CMD is executed: with nothing presented and nothing pending, the turn is taken and nothing else happens. FEED is the
unit's producer's, or the consumer's while it is the unit's only producer; PT.RX is P_RADIO's; every other command is the
consumer's. Turns, CMD as bytes, the reply field, and that a producer's command word waits on CMD for its producer's turn are the
model's form of the spec's ports and of R406 (logs 1, 2, 13, 14). -/
def Obligations.StepRunsDecodedCommand : Prop :=
  ∀ (s : State) (a : Agent) (e : Env) (ts : List Turn) (i : Instr) (rest : List Byte),
    s.turns = ⟨a, e⟩ :: ts → decode s.cmd = .instr i rest → i.wellFormed = true →
    (a = .consumer → s.pt.bidActive = false ∧ s.waiting = none) →
    (a = .pCrsf → s.byteInCrsf = []) → (a = .pSbus → s.byteInSbus = []) → (a = .pIbus → s.byteInIbus = []) →
    (a = .pRadio → s.radioRx = []) →
    (a = (match i with
        | .crsfFeed _ => if e.inline.crsf then .consumer else .pCrsf
        | .sbusFeed _ => if e.inline.sbus then .consumer else .pSbus
        | .ibusFeed _ => if e.inline.ibus then .consumer else .pIbus
        | .ptRx _ _ => .pRadio
        | _ => .consumer) →
      step s = exec i { s with turns := ts, env := e, reply := none, cmd := rest }) ∧
    (a ≠ (match i with
        | .crsfFeed _ => if e.inline.crsf then .consumer else .pCrsf
        | .sbusFeed _ => if e.inline.sbus then .consumer else .pSbus
        | .ibusFeed _ => if e.inline.ibus then .consumer else .pIbus
        | .ptRx _ _ => .pRadio
        | _ => .consumer) →
      step s = .next { s with turns := ts, env := e, reply := none })

/-- A producer's turn performs the FEED of the byte presented on its port, and the radio's turn the PT.RX of the frame presented
(60_exceptions.md R404, R406); while the consumer is a unit's only producer, that unit's producer's turn feeds nothing, whatever its
port and CMD hold (R406, D40); a consumer blocked at a WAIT performs that WAIT again at its turn, and no command of CMD (R407).
Turns, the byte and frame lists, the discipline sampled with each turn and the held WAIT are the model's form of the spec's ports, of
R406 and of `block` (logs 1, 4, 13). -/
def Obligations.StepRunsPresentedEvent : Prop :=
  ∀ (s : State) (e : Env) (ts : List Turn),
    (s.turns = ⟨.pCrsf, e⟩ :: ts → e.inline.crsf = true →
      step s = .next { s with turns := ts, env := e, reply := none }) ∧
    (∀ (b : Byte) (bs : List Byte), s.turns = ⟨.pCrsf, e⟩ :: ts → e.inline.crsf = false → s.byteInCrsf = b :: bs →
      step s = exec (.crsfFeed b) { s with turns := ts, env := e, reply := none, byteInCrsf := bs }) ∧
    (s.turns = ⟨.pSbus, e⟩ :: ts → e.inline.sbus = true →
      step s = .next { s with turns := ts, env := e, reply := none }) ∧
    (∀ (b : Byte) (bs : List Byte), s.turns = ⟨.pSbus, e⟩ :: ts → e.inline.sbus = false → s.byteInSbus = b :: bs →
      step s = exec (.sbusFeed b) { s with turns := ts, env := e, reply := none, byteInSbus := bs }) ∧
    (s.turns = ⟨.pIbus, e⟩ :: ts → e.inline.ibus = true →
      step s = .next { s with turns := ts, env := e, reply := none }) ∧
    (∀ (b : Byte) (bs : List Byte), s.turns = ⟨.pIbus, e⟩ :: ts → e.inline.ibus = false → s.byteInIbus = b :: bs →
      step s = exec (.ibusFeed b) { s with turns := ts, env := e, reply := none, byteInIbus := bs }) ∧
    (∀ (f : RadioFrame) (fs : List RadioFrame), s.turns = ⟨.pRadio, e⟩ :: ts → s.radioRx = f :: fs →
      step s = exec (.ptRx f.src f.data) { s with turns := ts, env := e, reply := none, radioRx := fs }) ∧
    (∀ w : PendingWait, s.turns = ⟨.consumer, e⟩ :: ts → s.pt.bidActive = false → s.waiting = some w →
      step s = exec w.instr { s with turns := ts, env := e, reply := none, waiting := none })

/-- A word that spells no command is refused with ILLEGAL, changes no state of the block, and its data bytes are consumed
(R111, D37).
Turns and CMD as bytes are the model's form of the spec's ports; the word waits until its data bytes are present (logs 1, 2, 17). -/
def Obligations.IllegalWordIsRefused : Prop :=
  ∀ (s : State) (e : Env) (ts : List Turn) (c0 c1 c2 c3 : Byte) (tail : List Byte),
    s.turns = ⟨.consumer, e⟩ :: ts → s.pt.bidActive = false → s.waiting = none →
    s.cmd = c0 :: c1 :: c2 :: c3 :: tail → ¬ spellsCommand (le32 c0 c1 c2 c3) →
    dataBytesAfter (le32 c0 c1 c2 c3) ≤ tail.length →
    ∃ s', step s = .next s' ∧
      Failed { s with turns := ts, env := e, cmd := tail.drop (dataBytesAfter (le32 c0 c1 c2 c3)) } .illegal s'

/-! ## Invariants of the whole machine -/

/-- Every step keeps the invariant: buffers in canonical form and in range, IDX below the buffer size, the frame shapes of
R262 and R266, and the peer table's invariants of R308.
R308 is the spec's own derivation; the canonical form of a buffer is the model's choice (log 9). -/
def Obligations.InvariantKept : Prop := ∀ s s' : State, Inv s → step s = .next s' → Inv s'

/-- The reset state meets the invariant.
The canonical form of a buffer is the model's choice (log 9). -/
def Obligations.ResetMeetsInvariant : Prop := Inv State.reset

/-- Nothing stops the block: from every state that meets the invariant, every step of every agent answers a next state, no
fault and no refusal (60_exceptions.md opening; 93_implementation_defined.md Part A).
That a turn with nothing to do is a step which changes nothing of the block is the model's choice (logs 3, 5). -/
def Obligations.BlockNeverStops : Prop := ∀ s : State, Inv s → ∃ s', step s = .next s'

/-- The registers and buffers after reset (70_reset_and_hazards.md R441).
The table is the spec's own derivation from 10_state.md. -/
def Obligations.ResetValues : Prop :=
  (∀ d ∈ [State.reset.crsf.dec, State.reset.sbus.dec, State.reset.ibus.dec],
    d.idx = 0 ∧ d.slen = 0 ∧ d.start = 0 ∧ d.dropped = 0 ∧ d.rxcount = 0 ∧ d.empty = true ∧ d.ready = false ∧
    ∀ i, d.work.read i = 0 ∧ d.stable.read i = 0) ∧
  (∀ i : Fin 16, State.reset.crsf.ch[i] = 0) ∧ (∀ i : Fin 18, State.reset.sbus.ch[i] = 0) ∧
  (∀ i : Fin 18, State.reset.ibus.ch[i] = 0) ∧
  State.reset.crsf.target = 0 ∧ State.reset.sbus.errors = 0 ∧
  State.reset.ibus.model = .none ∧ State.reset.ibus.offset = 0 ∧ State.reset.ibus.size = 0 ∧ State.reset.ibus.seed = 0 ∧
  State.reset.ibus.soffset = 0 ∧ State.reset.ibus.sseed = 0 ∧
  State.reset.crsf.status = 0x00000001 ∧ State.reset.ibus.status = 0x00000001 ∧ State.reset.sbus.status = 0x00190001 ∧
  (State.reset.pt.bcast.reg = true ∧ State.reset.pt.bcast.aset = true ∧
    State.reset.pt.bcast.addr = ⟨0xFF, 0xFF, 0xFF, 0xFF, 0xFF, 0xFF⟩ ∧ State.reset.pt.bcast.rxen = false ∧
    State.reset.pt.bcast.chan = Config.myChannel ∧ State.reset.pt.bcast.enc = false ∧ State.reset.pt.bcast.cap = 0 ∧
    State.reset.pt.bcast.len = 0) ∧
  (∀ p ∈ [PeerId.pri, PeerId.sec, PeerId.rsv],
    (State.reset.pt.slot p).reg = false ∧ (State.reset.pt.slot p).aset = false ∧
    (State.reset.pt.slot p).addr = ⟨0, 0, 0, 0, 0, 0⟩ ∧ (State.reset.pt.slot p).rxen = true ∧
    (State.reset.pt.slot p).chan = 0 ∧ (State.reset.pt.slot p).enc = false ∧ (State.reset.pt.slot p).cap = 0 ∧
    (State.reset.pt.slot p).len = 0) ∧
  (∀ (p : PeerId) (i : Nat), (State.reset.pt.slot p).buf.read i = 0) ∧
  State.reset.pt.rxcount = 0 ∧ State.reset.pt.lastTick = 0 ∧ State.reset.pt.tickDelta = 0 ∧
  State.reset.pt.readyPri = false ∧ State.reset.pt.readySec = false ∧
  State.reset.pt.bidActive = false ∧ State.reset.pt.bidLeft = 0

/-- Once the primary is bound, no step of any agent changes its address or unbinds it (45_peer_transceiver.md R289).
R289 is the spec's own derivation from R285, R286 and R291. -/
def Obligations.PrimaryAddressImmutable : Prop :=
  ∀ s s' : State, step s = .next s' → s.pt.pri.aset = true →
    s'.pt.pri.aset = true ∧ s'.pt.pri.addr = s.pt.pri.addr

/-- No command of one unit writes another unit's state, and only the transceiver's commands write the transceiver's
(10_state.md R33). -/
def Obligations.UnitsDoNotWriteEachOther : Prop :=
  ∀ (i : Instr) (s s' : State), exec i s = .next s' →
    (isCrsf i = false → s'.crsf = s.crsf) ∧
    (isSbus i = false → s'.sbus = s.sbus) ∧
    (isIbus i = false → s'.ibus = s.ibus) ∧
    ((isCrsf i || isSbus i || isIbus i || isPure i) = true → s'.pt = s.pt)

/-- No command of one unit reads another unit's state or the transceiver's: replacing it changes neither the command's effect on
its own unit nor its result (R33). -/
def Obligations.UnitsDoNotReadEachOther : Prop :=
  ∀ (i : Instr) (s s' : State) (c : CrsfUnit) (b : SbusUnit) (u : IbusUnit) (t : Transceiver),
    exec i s = .next s' →
    (isCrsf i = true → exec i { s with sbus := b, ibus := u, pt := t } = .next { s' with sbus := b, ibus := u, pt := t }) ∧
    (isSbus i = true → exec i { s with crsf := c, ibus := u, pt := t } = .next { s' with crsf := c, ibus := u, pt := t }) ∧
    (isIbus i = true → exec i { s with crsf := c, sbus := b, pt := t } = .next { s' with crsf := c, sbus := b, pt := t })

/-- A readiness signal that is set stays set through every command but the TAKE and WAIT of its own unit or peer
(46_decoder_interface.md R362, 45_peer_transceiver.md R295). -/
def Obligations.ReadyClearedOnlyByTakeOrWait : Prop :=
  ∀ (i : Instr) (s s' : State), exec i s = .next s' →
    (s.crsf.dec.ready = true → s'.crsf.dec.ready = false → i = .crsfTake ∨ ∃ t, i = .crsfWait t) ∧
    (s.sbus.dec.ready = true → s'.sbus.dec.ready = false → i = .sbusTake ∨ ∃ t, i = .sbusWait t) ∧
    (s.ibus.dec.ready = true → s'.ibus.dec.ready = false → i = .ibusTake ∨ ∃ t, i = .ibusWait t) ∧
    (s.pt.readyPri = true → s'.pt.readyPri = false → i = .ptTake .pri ∨ ∃ t, i = .ptWait .pri t) ∧
    (s.pt.readySec = true → s'.pt.readySec = false → i = .ptTake .sec ∨ ∃ t, i = .ptWait .sec t)

/-- The stable buffer of a unit changes only in the FEED that publishes a frame: EMPTY is cleared, READY set, RXCOUNT counts it
and IDX returns to 0 (20_memory.md R83; partial frames never reach the consumer, 95_test_vectors.md V-L1-11). -/
def Obligations.StableChangesOnlyAtPublish : Prop :=
  ∀ (i : Instr) (s s' : State), exec i s = .next s' →
    (s'.crsf.dec.stable ≠ s.crsf.dec.stable → (∃ b, i = .crsfFeed b) ∧ s'.crsf.dec.empty = false ∧ s'.crsf.dec.ready = true ∧
      s'.crsf.dec.rxcount = s.crsf.dec.rxcount + 1 ∧ s'.crsf.dec.idx = 0) ∧
    (s'.sbus.dec.stable ≠ s.sbus.dec.stable → (∃ b, i = .sbusFeed b) ∧ s'.sbus.dec.empty = false ∧ s'.sbus.dec.ready = true ∧
      s'.sbus.dec.rxcount = s.sbus.dec.rxcount + 1 ∧ s'.sbus.dec.idx = 0) ∧
    (s'.ibus.dec.stable ≠ s.ibus.dec.stable → (∃ b, i = .ibusFeed b) ∧ s'.ibus.dec.empty = false ∧ s'.ibus.dec.ready = true ∧
      s'.ibus.dec.rxcount = s.ibus.dec.rxcount + 1 ∧ s'.ibus.dec.idx = 0)

/-- A step that changes a peer's receive buffer leaves that peer's readiness signal set: a consumer that finds the signal clear
after reading the buffer read one frame (70_reset_and_hazards.md R454). -/
def Obligations.PeerBufferChangeSetsReady : Prop :=
  ∀ s s' : State, step s = .next s' →
    (s'.pt.pri.buf ≠ s.pt.pri.buf → s'.pt.readyPri = true) ∧
    (s'.pt.sec.buf ≠ s.pt.sec.buf → s'.pt.readySec = true)

/-! ## The readout commands of the decoder units -/

/-- CHRAW returns the raw channel value, and 1000 for an index at or above the unit's channel count; no state changes
(46_decoder_interface.md R330, R340, R350, R360). -/
def Obligations.ChannelRawReadout : Prop :=
  ∀ (s : State) (i : Byte),
    (∀ h : i.toNat < 16,
      exec (.crsfChraw i) s = .next { s with reply := some ⟨.ok, (s.crsf.ch[i.toNat]).setWidth 32, []⟩ }) ∧
    (16 ≤ i.toNat → exec (.crsfChraw i) s = .next { s with reply := some ⟨.ok, 1000, []⟩ }) ∧
    (∀ h : i.toNat < 18,
      exec (.sbusChraw i) s = .next { s with reply := some ⟨.ok, (s.sbus.ch[i.toNat]).setWidth 32, []⟩ } ∧
      exec (.ibusChraw i) s = .next { s with reply := some ⟨.ok, (s.ibus.ch[i.toNat]).setWidth 32, []⟩ }) ∧
    (18 ≤ i.toNat →
      exec (.sbusChraw i) s = .next { s with reply := some ⟨.ok, 1000, []⟩ } ∧
      exec (.ibusChraw i) s = .next { s with reply := some ⟨.ok, 1000, []⟩ })

/-- CHPWM: CRSF by the OPEN map of the 11-bit raw value, SBUS data channels raw*5/8 + 880, SBUS flag channels 2000 or 1000, IBUS
the raw value, and 1000 for an index out of range; no state changes (R331, R341, R351, R360, 42_sbus.md R213).
The low 11 bits of the register are what crsf_pwm is applied to (log 15). -/
def Obligations.ChannelPwmReadout : Prop :=
  ∀ (s : State) (i : Byte),
    (∀ h : i.toNat < 16,
      exec (.crsfChpwm i) s =
        .next { s with reply := some ⟨.ok, (Config.crsfPwm ((s.crsf.ch[i.toNat]).setWidth 11)).setWidth 32, []⟩ } ∧
      ∃ v : Word, exec (.sbusChpwm i) s = .next { s with reply := some ⟨.ok, v, []⟩ } ∧
        v.toNat = (s.sbus.ch[i.toNat]'(Nat.lt_of_lt_of_le h (by decide))).toNat * 5 / 8 + 880) ∧
    (16 ≤ i.toNat → exec (.crsfChpwm i) s = .next { s with reply := some ⟨.ok, 1000, []⟩ }) ∧
    (∀ h : i.toNat < 18,
      (16 ≤ i.toNat →
        exec (.sbusChpwm i) s =
          .next { s with reply := some ⟨.ok, if s.sbus.ch[i.toNat] = 1 then 2000 else 1000, []⟩ }) ∧
      exec (.ibusChpwm i) s = .next { s with reply := some ⟨.ok, (s.ibus.ch[i.toNat]).setWidth 32, []⟩ }) ∧
    (18 ≤ i.toNat →
      exec (.sbusChpwm i) s = .next { s with reply := some ⟨.ok, 1000, []⟩ } ∧
      exec (.ibusChpwm i) s = .next { s with reply := some ⟨.ok, 1000, []⟩ })

/-- STATUS: selector 0 returns the status word SR with its fields in place, 1 DROPPED, 3 RXCOUNT, 2 the SBUS error counter, and
every other selector is refused with ILLEGAL; no state changes (10_state.md R38, R39; R332, R342, R352). -/
def Obligations.StatusReadout : Prop :=
  ∀ (s : State),
    (∃ v : Word, exec (.crsfStatus 0) s = .next { s with reply := some ⟨.ok, v, []⟩ } ∧
      v.toNat = s.crsf.dec.empty.toNat + 2 * s.crsf.dec.ready.toNat + 2 ^ 8 * s.crsf.dec.idx.toNat
        + 2 ^ 16 * s.crsf.target.toNat) ∧
    (∃ v : Word, exec (.sbusStatus 0) s = .next { s with reply := some ⟨.ok, v, []⟩ } ∧
      v.toNat = s.sbus.dec.empty.toNat + 2 * s.sbus.dec.ready.toNat + 2 ^ 8 * s.sbus.dec.idx.toNat + 2 ^ 16 * 25) ∧
    (∃ v : Word, exec (.ibusStatus 0) s = .next { s with reply := some ⟨.ok, v, []⟩ } ∧
      v.toNat = s.ibus.dec.empty.toNat + 2 * s.ibus.dec.ready.toNat + 2 ^ 8 * s.ibus.dec.idx.toNat
        + 2 ^ 16 * s.ibus.size.toNat
        + 2 ^ 24 * (match s.ibus.model with | .none => 0 | .ia6b => 1 | .ia6 => 2)) ∧
    exec (.crsfStatus 1) s = .next { s with reply := some ⟨.ok, s.crsf.dec.dropped, []⟩ } ∧
    exec (.sbusStatus 1) s = .next { s with reply := some ⟨.ok, s.sbus.dec.dropped, []⟩ } ∧
    exec (.ibusStatus 1) s = .next { s with reply := some ⟨.ok, s.ibus.dec.dropped, []⟩ } ∧
    exec (.sbusStatus 2) s = .next { s with reply := some ⟨.ok, s.sbus.errors, []⟩ } ∧
    exec (.crsfStatus 3) s = .next { s with reply := some ⟨.ok, s.crsf.dec.rxcount, []⟩ } ∧
    exec (.sbusStatus 3) s = .next { s with reply := some ⟨.ok, s.sbus.dec.rxcount, []⟩ } ∧
    exec (.ibusStatus 3) s = .next { s with reply := some ⟨.ok, s.ibus.dec.rxcount, []⟩ } ∧
    (∀ sel : Byte, sel = 2 ∨ 4 ≤ sel.toNat →
      ∃ s' s'', exec (.crsfStatus sel) s = .next s' ∧ Failed s .illegal s' ∧
        exec (.ibusStatus sel) s = .next s'' ∧ Failed s .illegal s'') ∧
    (∀ sel : Byte, 4 ≤ sel.toNat → ∃ s', exec (.sbusStatus sel) s = .next s' ∧ Failed s .illegal s')

/-- TAKE returns the unit's readiness signal and clears it, and a WAIT that finds it set, in either mode, clears it and returns 1;
nothing else changes, so the frame stays unconsumed (R333, R334, R343, R344, R353, R354). -/
def Obligations.UnitTakeAndWaitTakeSignal : Prop :=
  ∀ (s : State) (m : WaitMode),
    exec .crsfTake s = .next { s with
      crsf := { s.crsf with dec := { s.crsf.dec with ready := false } }
      reply := some ⟨.ok, if s.crsf.dec.ready then 1 else 0, []⟩ } ∧
    exec .sbusTake s = .next { s with
      sbus := { s.sbus with dec := { s.sbus.dec with ready := false } }
      reply := some ⟨.ok, if s.sbus.dec.ready then 1 else 0, []⟩ } ∧
    exec .ibusTake s = .next { s with
      ibus := { s.ibus with dec := { s.ibus.dec with ready := false } }
      reply := some ⟨.ok, if s.ibus.dec.ready then 1 else 0, []⟩ } ∧
    (s.crsf.dec.ready = true → exec (.crsfWait m) s = .next { s with
      crsf := { s.crsf with dec := { s.crsf.dec with ready := false } }, reply := some ⟨.ok, 1, []⟩ }) ∧
    (s.sbus.dec.ready = true → exec (.sbusWait m) s = .next { s with
      sbus := { s.sbus with dec := { s.sbus.dec with ready := false } }, reply := some ⟨.ok, 1, []⟩ }) ∧
    (s.ibus.dec.ready = true → exec (.ibusWait m) s = .next { s with
      ibus := { s.ibus with dec := { s.ibus.dec with ready := false } }, reply := some ⟨.ok, 1, []⟩ })

/-- A WAIT that finds its signal clear, for a unit or for the primary or secondary peer: a timed one whose timeout has expired
returns 0; every other one returns nothing and waits, with every register unchanged (R334, R344, R354, 45_peer_transceiver.md R304,
60_exceptions.md R407, R425).
That a blocked WAIT is held in a field and retried is the model's choice (log 4). -/
def Obligations.WaitOnClearSignal : Prop :=
  ∀ (s : State) (w : PendingWait), s.readyOf w.target = false → pendingWaitOk w →
    (w.mode = .timed → s.env.timedOut = true → exec w.instr s = .next { s with reply := some ⟨.ok, 0, []⟩ }) ∧
    (w.mode = .inf ∨ s.env.timedOut = false → exec w.instr s = .next { s with waiting := some w, reply := none })

/-- IBUS.GETMODEL returns MODEL | (OFFSET << 8) and changes nothing (43_ibus.md R245). -/
def Obligations.IbusGetmodelReadsLatch : Prop :=
  ∀ s : State, ∃ v : Word, exec .ibusGetmodel s = .next { s with reply := some ⟨.ok, v, []⟩ } ∧
    v.toNat = (match s.ibus.model with | .none => 0 | .ia6b => 1 | .ia6 => 2) + 2 ^ 8 * s.ibus.offset.toNat

/-! ## Validators and codec -/

/-- VAL.CRC8 returns the CRC of one byte: eight times shift left, folding in 0xD5 when the bit shifted out is 1
(44_validators.md R261, R263).
MSB-first, no reflection and no final XOR are the spec's inference from the source's example (R261). -/
def Obligations.ValCrc8Result : Prop :=
  ∀ (s : State) (ci b : Byte),
    ∃ c : Byte, exec (.valCrc8 ci b) s = .next { s with reply := some ⟨.ok, c.setWidth 32, []⟩ } ∧
      c = (fun x : Byte => if x.getLsbD 7 then (x <<< 1) ^^^ 0xD5 else x <<< 1)^[8] (ci ^^^ b)

/-- VAL.SUM16 returns (ACC + LE16(LO, HI)) mod 2^16 with ACC = W[15:0] and the pair in W[31:16] (R264). -/
def Obligations.ValSum16Result : Prop :=
  ∀ (s : State) (w : Word), ∃ v : Word, exec (.valSum16 w) s = .next { s with reply := some ⟨.ok, v, []⟩ } ∧
    v.toNat = (w.toNat % 2 ^ 16 + w.toNat / 2 ^ 16) % 2 ^ 16

/-- Flipping one bit of a byte the CRSF check covers, the CRC byte included, makes a frame that passed fail
(R262; 90_conflicts.md C5, 41_crsf.md R184). -/
def Obligations.CrsfSingleBitFlipDetected : Prop :=
  ∀ (f : Memory) (len j k : Nat), f.wf = true → crsfFrameOk f len = true → 2 ≤ j → j < len → k < 8 →
    crsfFrameOk (f.write j (f.read j ^^^ (1#8 <<< k))) len = false

/-- Flipping one bit of a slot or checksum byte makes an IBUS frame that passed fail (43_ibus.md R240; 44_validators.md R265,
R266). -/
def Obligations.IbusSingleBitFlipDetected : Prop :=
  ∀ (f : Memory) (n o : Nat) (seed : Half) (j k : Nat), f.wf = true → ibusFrameOk f n o seed = true → k < 8 →
    (o ≤ j ∧ j < o + 28) ∨ j = n - 2 ∨ j = n - 1 →
    ibusFrameOk (f.write j (f.read j ^^^ (1#8 <<< k))) n o seed = false

/-- FPC.DECODE: 0 for a zero exponent; sign × floor(|value| × 2^11) for exponents 1 to 139, the value being
(2^23 + m) × 2^(e − 150); the OPEN fpc_big above (40_fixed_point_codec.md R150 to R153).
The floor form of the shift is the spec's own derivation in R152. -/
def Obligations.FpcDecodeTruncates : Prop :=
  ∀ (s : State) (w : Word), ∃ v : Word, exec (.fpcDecode w) s = .next { s with reply := some ⟨.ok, v, []⟩ } ∧
    (w.toNat / 2 ^ 23 % 2 ^ 8 = 0 → v = 0) ∧
    (1 ≤ w.toNat / 2 ^ 23 % 2 ^ 8 → w.toNat / 2 ^ 23 % 2 ^ 8 ≤ 139 →
      v.toInt = (if 2 ^ 31 ≤ w.toNat then -1 else 1) *
        (((2 ^ 23 + w.toNat % 2 ^ 23) * 2 ^ (w.toNat / 2 ^ 23 % 2 ^ 8) / 2 ^ 139 : Nat) : Int)) ∧
    (140 ≤ w.toNat / 2 ^ 23 % 2 ^ 8 → v = Config.fpcBig w)

/-- FPC.ENCODE returns +0.0 for 0; else a normal pattern with the sign of q whose value is q / 2048 rounded to nearest with ties to
the even mantissa: with exponent e and significand M = 2^23 + m, |M × 2^e − |q| × 2^139| is at most half of 2^e, the spacing of the
patterns there, and m is even where it is exactly half; where the result is the least of its exponent (m = 0) and lies above |q|,
the spacing below it is 2^(e−1) and the distance at most half of that (R155, R156).
Round to nearest, ties to even, is the spec's decision D23, from general knowledge (R156, log 11). -/
def Obligations.FpcEncodeRoundsToNearest : Prop :=
  ∀ (s : State) (q : Word), ∃ r : Word, exec (.fpcEncode q) s = .next { s with reply := some ⟨.ok, r, []⟩ } ∧
    (q = 0 → r = 0) ∧
    (q ≠ 0 →
      (2 ^ 31 ≤ r.toNat ↔ q.toInt < 0) ∧
      116 ≤ r.toNat / 2 ^ 23 % 2 ^ 8 ∧ r.toNat / 2 ^ 23 % 2 ^ 8 ≤ 147 ∧
      (let e := r.toNat / 2 ^ 23 % 2 ^ 8
       let m := r.toNat % 2 ^ 23
       let err : Int := ((2 ^ 23 + m) * 2 ^ e : Nat) - (q.toInt.natAbs * 2 ^ 139 : Nat)
       2 * err.natAbs ≤ 2 ^ e ∧ (2 * err.natAbs = 2 ^ e → m % 2 = 0) ∧ (m = 0 → 0 < err → 4 * err.natAbs ≤ 2 ^ e)))

/-- For |q| < 2^24 FPC.DECODE of FPC.ENCODE's result returns q; at |q| = 2^24 it returns fpc_big of it (R157).
R157 is the spec's own derivation; it rests on D23's rounding (log 11). -/
def Obligations.FpcRoundTrip : Prop :=
  ∀ (s : State) (q : Word), ∃ r : Word, exec (.fpcEncode q) s = .next { s with reply := some ⟨.ok, r, []⟩ } ∧
    (q.toInt.natAbs < 2 ^ 24 → exec (.fpcDecode r) s = .next { s with reply := some ⟨.ok, q, []⟩ }) ∧
    (q.toInt.natAbs = 2 ^ 24 → exec (.fpcDecode r) s = .next { s with reply := some ⟨.ok, Config.fpcBig r, []⟩ })

/-! ## CRSF -/

/-- CRSF.FEED at IDX = 0: a sync byte starts a frame, any other byte sets EMPTY and changes nothing else (41_crsf.md R173).
The second sync value 0xEE is the spec's decision D8, from general knowledge (log 11). -/
def Obligations.CrsfFeedAtIndexZero : Prop :=
  ∀ (s : State) (b : Byte), s.crsf.dec.idx = 0 →
    (b = 0xC8 ∨ b = 0xEE → s.crsf.dec.work.wf = true →
      ∃ w : Memory, (∀ i, w.read i = if i = 0 then b else s.crsf.dec.work.read i) ∧
        exec (.crsfFeed b) s = .next { s with
          crsf := { s.crsf with dec := { s.crsf.dec with work := w, idx := 1, start := s.env.timeUs } }
          reply := some ⟨.ok, 0, []⟩ }) ∧
    (b ≠ 0xC8 → b ≠ 0xEE →
      exec (.crsfFeed b) s = .next { s with
        crsf := { s.crsf with dec := { s.crsf.dec with empty := true } }
        reply := some ⟨.ok, 0, []⟩ })

/-- The resync timeout of the three units: a byte that arrives with a frame in progress, strictly more than the budget (1750, 3500,
3000 µs, mod 2^32) after START, acts as it would with IDX = 0 and DROPPED one higher, no other register touched first
(R172, 42_sbus.md R202, 43_ibus.md R233). -/
def Obligations.FeedAfterTimeoutRestarts : Prop :=
  ∀ (s : State) (b : Byte),
    (s.crsf.dec.idx ≠ 0 → 1750 < (s.env.timeUs - s.crsf.dec.start).toNat →
      exec (.crsfFeed b) s = exec (.crsfFeed b) { s with
        crsf := { s.crsf with dec := { s.crsf.dec with idx := 0, dropped := s.crsf.dec.dropped + 1 } } }) ∧
    (s.sbus.dec.idx ≠ 0 → 3500 < (s.env.timeUs - s.sbus.dec.start).toNat →
      exec (.sbusFeed b) s = exec (.sbusFeed b) { s with
        sbus := { s.sbus with dec := { s.sbus.dec with idx := 0, dropped := s.sbus.dec.dropped + 1 } } }) ∧
    (s.ibus.dec.idx ≠ 0 → 3000 < (s.env.timeUs - s.ibus.dec.start).toNat →
      exec (.ibusFeed b) s = exec (.ibusFeed b) { s with
        ibus := { s.ibus with dec := { s.ibus.dec with idx := 0, dropped := s.ibus.dec.dropped + 1 } } })

/-- DROPPED counts timeouts and nothing else: it increases by exactly 1 in a FEED whose timeout check fires, and no other command
or FEED changes it (R172; 60_exceptions.md R402). -/
def Obligations.DroppedCountsTimeoutsOnly : Prop :=
  ∀ (i : Instr) (s s' : State), exec i s = .next s' →
    s'.crsf.dec.dropped = s.crsf.dec.dropped +
      (if (∃ b, i = .crsfFeed b) ∧ s.crsf.dec.idx ≠ 0 ∧ 1750 < (s.env.timeUs - s.crsf.dec.start).toNat then 1 else 0) ∧
    s'.sbus.dec.dropped = s.sbus.dec.dropped +
      (if (∃ b, i = .sbusFeed b) ∧ s.sbus.dec.idx ≠ 0 ∧ 3500 < (s.env.timeUs - s.sbus.dec.start).toNat then 1 else 0) ∧
    s'.ibus.dec.dropped = s.ibus.dec.dropped +
      (if (∃ b, i = .ibusFeed b) ∧ s.ibus.dec.idx ≠ 0 ∧ 3000 < (s.env.timeUs - s.ibus.dec.start).toNat then 1 else 0)

/-- CRSF.FEED at IDX = 1 within the budget: a length byte of 2..62 sets TARGET to it plus 2 and is stored, any other abandons the
frame with no counter, EMPTY or READY changed (R174). -/
def Obligations.CrsfFeedLengthByte : Prop :=
  ∀ (s : State) (b : Byte), s.crsf.dec.idx = 1 → (s.env.timeUs - s.crsf.dec.start).toNat ≤ 1750 →
    (2 ≤ b.toNat → b.toNat ≤ 62 → s.crsf.dec.work.wf = true →
      ∃ w : Memory, (∀ i, w.read i = if i = 1 then b else s.crsf.dec.work.read i) ∧
        exec (.crsfFeed b) s = .next { s with
          crsf := { s.crsf with target := b + 2, dec := { s.crsf.dec with work := w, idx := 2 } }
          reply := some ⟨.ok, 0, []⟩ }) ∧
    (b.toNat < 2 ∨ 62 < b.toNat →
      exec (.crsfFeed b) s = .next { s with
        crsf := { s.crsf with dec := { s.crsf.dec with idx := 0 } }
        reply := some ⟨.ok, 0, []⟩ })

/-- CRSF.FEED at IDX ≥ 2 within the budget: the byte is stored at WORK[IDX] and IDX increases; when it reaches TARGET the TARGET
bytes are copied to STABLE, EMPTY is cleared, READY set, RXCOUNT incremented, IDX returns to 0 and the result is 1
(R175, R176, 20_memory.md R83). -/
def Obligations.CrsfFeedPayloadByte : Prop :=
  ∀ (s : State) (b : Byte), 2 ≤ s.crsf.dec.idx.toNat → s.crsf.dec.idx.toNat < 64 →
    (s.env.timeUs - s.crsf.dec.start).toNat ≤ 1750 → s.crsf.dec.work.wf = true → s.crsf.dec.stable.wf = true →
    ∃ w : Memory, (∀ i, w.read i = if i = s.crsf.dec.idx.toNat then b else s.crsf.dec.work.read i) ∧
      (s.crsf.dec.idx.toNat + 1 ≠ s.crsf.target.toNat →
        exec (.crsfFeed b) s = .next { s with
          crsf := { s.crsf with dec := { s.crsf.dec with work := w, idx := s.crsf.dec.idx + 1 } }
          reply := some ⟨.ok, 0, []⟩ }) ∧
      (s.crsf.dec.idx.toNat + 1 = s.crsf.target.toNat →
        ∃ t : Memory, (∀ i, t.read i = if i < s.crsf.target.toNat then w.read i else s.crsf.dec.stable.read i) ∧
          exec (.crsfFeed b) s = .next { s with
            crsf := { s.crsf with dec := { s.crsf.dec with
              work := w, stable := t, slen := s.crsf.target, empty := false, ready := true,
              rxcount := s.crsf.dec.rxcount + 1, idx := 0 } }
            reply := some ⟨.ok, 1, []⟩ })

/-- A whole CRSF frame fed byte by byte from IDX = 0, every byte within the budget of the first, is published: the run of its
producer steps ends with the frame in STABLE, SLEN and TARGET its length, START the first byte's time, EMPTY clear, READY set,
RXCOUNT one higher, the last result 1, the bytes and the turns taken; everything else of the state is unchanged, the bytes of WORK
and STABLE beyond the frame among it (R171 to R176). Turns and the byte list are the model's form of the spec's ports (log 1); 0xEE
is the spec's decision D8 (log 11). -/
def Obligations.CrsfFrameIsPublished : Prop :=
  ∀ (s : State) (sync len : Byte) (body more : List Byte) (t0 : Turn) (ts rest : List Turn),
    s.crsf.dec.idx = 0 → s.crsf.dec.work.wf = true → s.crsf.dec.stable.wf = true →
    sync = 0xC8 ∨ sync = 0xEE → 2 ≤ len.toNat → len.toNat ≤ 62 → body.length = len.toNat →
    s.byteInCrsf = sync :: len :: body ++ more →
    s.turns = t0 :: ts ++ rest → ts.length = body.length + 1 →
    (∀ t ∈ t0 :: ts, t.agent = .pCrsf ∧ t.env.inline.crsf = false ∧ (t.env.timeUs - t0.env.timeUs).toNat ≤ 1750) →
    ∃ w t : Memory,
      (∀ k, w.read k = if h : k < (sync :: len :: body).length then (sync :: len :: body)[k] else s.crsf.dec.work.read k) ∧
      (∀ k, t.read k = if h : k < (sync :: len :: body).length then (sync :: len :: body)[k] else s.crsf.dec.stable.read k) ∧
      Host.Core.run Sys2Proof.core (body.length + 2) s = .next { s with
        crsf := { s.crsf with
          target := len + 2
          dec := { s.crsf.dec with
            work := w, stable := t, slen := len + 2, idx := 0, start := t0.env.timeUs, empty := false, ready := true,
            rxcount := s.crsf.dec.rxcount + 1 } }
        byteInCrsf := more, turns := rest, env := ((t0 :: ts).getLast (List.cons_ne_nil t0 ts)).env
        reply := some ⟨.ok, 1, []⟩ }

/-- CRSF.UNPACK of an unconsumed RC-channels frame (26 bytes, type 0x16, CRC right): EMPTY is set, CH[i] holds the 11 bits from
stream bit 11·i of bytes 3..24, bit k of the stream being bit k mod 8 of byte 3 + k/8, and the result is 1; nothing else changes
(R180, R181, R182, 20_memory.md R81). -/
def Obligations.CrsfUnpackDecodesChannels : Prop :=
  ∀ s : State, s.crsf.dec.empty = false → s.crsf.dec.slen = 26 → s.crsf.dec.stable.read 2 = 0x16 →
    crc8 0 (s.crsf.dec.stable.bytes 2 23) = s.crsf.dec.stable.read 25 →
    ∃ ch : Vector Half 16,
      (∀ (i : Fin 16) (j : Nat), ch[i].getLsbD j =
        (decide (j < 11) &&
          (s.crsf.dec.stable.read (3 + (11 * i.val + j) / 8)).getLsbD ((11 * i.val + j) % 8))) ∧
      exec .crsfUnpack s = .next { s with
        crsf := { s.crsf with ch := ch, dec := { s.crsf.dec with empty := true } }
        reply := some ⟨.ok, 1, []⟩ }

/-- CRSF.UNPACK otherwise: an empty unit returns 0 and changes nothing; a frame with a wrong CRC, type or length is consumed with
result 0 and leaves every channel as it was (R180, R183, R184, 60_exceptions.md R401). -/
def Obligations.CrsfUnpackRejects : Prop :=
  ∀ s : State,
    (s.crsf.dec.empty = true → exec .crsfUnpack s = .next { s with reply := some ⟨.ok, 0, []⟩ }) ∧
    (s.crsf.dec.empty = false → s.crsf.dec.slen.toNat ≤ 64 →
      s.crsf.dec.slen ≠ 26 ∨ s.crsf.dec.stable.read 2 ≠ 0x16 ∨
        crc8 0 (s.crsf.dec.stable.bytes 2 23) ≠ s.crsf.dec.stable.read 25 →
      exec .crsfUnpack s = .next { s with
        crsf := { s.crsf with dec := { s.crsf.dec with empty := true } }
        reply := some ⟨.ok, 0, []⟩ })

/-- Sixteen 11-bit values packed into 22 bytes as one little-endian bit stream are the sixteen CRSF and the sixteen SBUS data
channels a decoder extracts (R181, 42_sbus.md R211, 20_memory.md R81; 95_test_vectors.md V-L1-10).
The bit order beyond field 0 is the spec's decision D11 (R81). -/
def Obligations.PackedChannelsRoundTrip : Prop :=
  ∀ (v : Fin 16 → BitVec 11) (f : Memory),
    (f.bytes 3 22 = natBytes 22 (∑ i : Fin 16, (v i).toNat * 2 ^ (11 * i.val)) →
      ∀ i : Fin 16, (crsfChannels f)[i] = (v i).setWidth 16) ∧
    (f.bytes 1 22 = natBytes 22 (∑ i : Fin 16, (v i).toNat * 2 ^ (11 * i.val)) →
      ∀ i : Fin 16, (sbusChannels f)[i.val] = (v i).setWidth 16)

/-! ## SBUS -/

/-- SBUS.FEED at IDX = 0: 0x0F starts a frame, any other byte sets EMPTY and changes nothing else (42_sbus.md R203). -/
def Obligations.SbusFeedAtIndexZero : Prop :=
  ∀ (s : State) (b : Byte), s.sbus.dec.idx = 0 →
    (b = 0x0F → s.sbus.dec.work.wf = true →
      ∃ w : Memory, (∀ i, w.read i = if i = 0 then b else s.sbus.dec.work.read i) ∧
        exec (.sbusFeed b) s = .next { s with
          sbus := { s.sbus with dec := { s.sbus.dec with work := w, idx := 1, start := s.env.timeUs } }
          reply := some ⟨.ok, 0, []⟩ }) ∧
    (b ≠ 0x0F →
      exec (.sbusFeed b) s = .next { s with
        sbus := { s.sbus with dec := { s.sbus.dec with empty := true } }
        reply := some ⟨.ok, 0, []⟩ })

/-- SBUS.FEED at 1 ≤ IDX ≤ 24 within the budget: the byte is stored; the 25th byte ends the frame, which is published with result 1
when it is 0x00, and discarded with ERRORS one higher, STABLE, EMPTY and READY untouched, when it is not
(R204, R205, 20_memory.md R83). -/
def Obligations.SbusFeedDataByte : Prop :=
  ∀ (s : State) (b : Byte), 1 ≤ s.sbus.dec.idx.toNat → s.sbus.dec.idx.toNat ≤ 24 →
    (s.env.timeUs - s.sbus.dec.start).toNat ≤ 3500 → s.sbus.dec.work.wf = true → s.sbus.dec.stable.wf = true →
    ∃ w : Memory, (∀ i, w.read i = if i = s.sbus.dec.idx.toNat then b else s.sbus.dec.work.read i) ∧
      (s.sbus.dec.idx.toNat < 24 →
        exec (.sbusFeed b) s = .next { s with
          sbus := { s.sbus with dec := { s.sbus.dec with work := w, idx := s.sbus.dec.idx + 1 } }
          reply := some ⟨.ok, 0, []⟩ }) ∧
      (s.sbus.dec.idx.toNat = 24 → b ≠ 0x00 →
        exec (.sbusFeed b) s = .next { s with
          sbus := { s.sbus with errors := s.sbus.errors + 1, dec := { s.sbus.dec with work := w, idx := 0 } }
          reply := some ⟨.ok, 0, []⟩ }) ∧
      (s.sbus.dec.idx.toNat = 24 → b = 0x00 →
        ∃ t : Memory, (∀ i, t.read i = if i < 25 then w.read i else s.sbus.dec.stable.read i) ∧
          exec (.sbusFeed b) s = .next { s with
            sbus := { s.sbus with dec := { s.sbus.dec with
              work := w, stable := t, slen := 25, empty := false, ready := true,
              rxcount := s.sbus.dec.rxcount + 1, idx := 0 } }
            reply := some ⟨.ok, 1, []⟩ })

/-- A whole SBUS frame fed byte by byte from IDX = 0, every byte within the budget of the first, is published: the run of 25
producer steps ends with the frame in STABLE, SLEN 25, START the first byte's time, EMPTY clear, READY set, RXCOUNT one higher, the
last result 1, the bytes and the turns taken; everything else of the state is unchanged, the bytes of WORK and STABLE beyond the
frame among it (R201 to R205). Turns and the byte list are the model's form of the spec's ports (log 1). -/
def Obligations.SbusFrameIsPublished : Prop :=
  ∀ (s : State) (body more : List Byte) (t0 : Turn) (ts rest : List Turn),
    s.sbus.dec.idx = 0 → s.sbus.dec.work.wf = true → s.sbus.dec.stable.wf = true → body.length = 23 →
    s.byteInSbus = (0x0F#8 :: body) ++ (0x00#8 :: more) →
    s.turns = t0 :: ts ++ rest → ts.length = 24 →
    (∀ t ∈ t0 :: ts, t.agent = .pSbus ∧ t.env.inline.sbus = false ∧ (t.env.timeUs - t0.env.timeUs).toNat ≤ 3500) →
    ∃ w t : Memory,
      (∀ k, w.read k =
        if h : k < (0x0F#8 :: body ++ [0x00#8]).length then (0x0F#8 :: body ++ [0x00#8])[k] else s.sbus.dec.work.read k) ∧
      (∀ k, t.read k =
        if h : k < (0x0F#8 :: body ++ [0x00#8]).length then (0x0F#8 :: body ++ [0x00#8])[k] else s.sbus.dec.stable.read k) ∧
      Host.Core.run Sys2Proof.core 25 s = .next { s with
        sbus := { s.sbus with
          dec := { s.sbus.dec with
            work := w, stable := t, slen := 25, idx := 0, start := t0.env.timeUs, empty := false, ready := true,
            rxcount := s.sbus.dec.rxcount + 1 } }
        byteInSbus := more, turns := rest, env := ((t0 :: ts).getLast (List.cons_ne_nil t0 ts)).env
        reply := some ⟨.ok, 1, []⟩ }

/-- SBUS.UNPACK: an empty unit returns 0 and changes nothing; otherwise the frame is consumed, CH[0..15] are the 11-bit fields of
bytes 1..22, CH[16] and CH[17] are bits 0 and 1 of byte 23, and the result is 1 (R210, R211, R212).
Which flag bits are channels 16 and 17 is the spec's decision D12, from general knowledge (log 11). -/
def Obligations.SbusUnpackDecodesChannels : Prop :=
  ∀ s : State,
    (s.sbus.dec.empty = true → exec .sbusUnpack s = .next { s with reply := some ⟨.ok, 0, []⟩ }) ∧
    (s.sbus.dec.empty = false →
      ∃ ch : Vector Half 18,
        (∀ (i : Fin 18) (j : Nat), i.val < 16 → ch[i].getLsbD j =
          (decide (j < 11) &&
            (s.sbus.dec.stable.read (1 + (11 * i.val + j) / 8)).getLsbD ((11 * i.val + j) % 8))) ∧
        ch[16].toNat = (s.sbus.dec.stable.read 23).toNat % 2 ∧
        ch[17].toNat = (s.sbus.dec.stable.read 23).toNat / 2 % 2 ∧
        exec .sbusUnpack s = .next { s with
          sbus := { s.sbus with ch := ch, dec := { s.sbus.dec with empty := true } }
          reply := some ⟨.ok, 1, []⟩ })

/-! ## IBUS -/

/-- IBUS.FEED at IDX = 0: 0x20 and 0x04 latch IA6B with that size, 0x55 latches IA6, and start a frame; any other byte sets EMPTY
and changes nothing else (43_ibus.md R232). -/
def Obligations.IbusFeedDetectsModel : Prop :=
  ∀ (s : State) (b : Byte), s.ibus.dec.idx = 0 →
    (b = 0x20 ∨ b = 0x04 → s.ibus.dec.work.wf = true →
      ∃ w : Memory, (∀ i, w.read i = if i = 0 then b else s.ibus.dec.work.read i) ∧
        exec (.ibusFeed b) s = .next { s with
          ibus := { s.ibus with
            model := .ia6b, offset := 2, size := b, seed := 0xFFFF
            dec := { s.ibus.dec with work := w, idx := 1, start := s.env.timeUs } }
          reply := some ⟨.ok, 0, []⟩ }) ∧
    (b = 0x55 → s.ibus.dec.work.wf = true →
      ∃ w : Memory, (∀ i, w.read i = if i = 0 then b else s.ibus.dec.work.read i) ∧
        exec (.ibusFeed b) s = .next { s with
          ibus := { s.ibus with
            model := .ia6, offset := 1, size := 31, seed := 0x0000
            dec := { s.ibus.dec with work := w, idx := 1, start := s.env.timeUs } }
          reply := some ⟨.ok, 0, []⟩ }) ∧
    (b ≠ 0x20 → b ≠ 0x04 → b ≠ 0x55 →
      exec (.ibusFeed b) s = .next { s with
        ibus := { s.ibus with dec := { s.ibus.dec with empty := true } }
        reply := some ⟨.ok, 0, []⟩ })

/-- IBUS.FEED at IDX ≥ 1 within the budget: the byte is stored; at SIZE a 4-byte telemetry frame is dropped with no counter
changed, and a longer frame is published with its OFFSET and SEED, result 1 (R234, R235, R236, 20_memory.md R83). -/
def Obligations.IbusFeedDataByte : Prop :=
  ∀ (s : State) (b : Byte), 1 ≤ s.ibus.dec.idx.toNat → s.ibus.dec.idx.toNat < 32 →
    (s.env.timeUs - s.ibus.dec.start).toNat ≤ 3000 → s.ibus.dec.work.wf = true → s.ibus.dec.stable.wf = true →
    ∃ w : Memory, (∀ i, w.read i = if i = s.ibus.dec.idx.toNat then b else s.ibus.dec.work.read i) ∧
      (s.ibus.dec.idx.toNat + 1 ≠ s.ibus.size.toNat →
        exec (.ibusFeed b) s = .next { s with
          ibus := { s.ibus with dec := { s.ibus.dec with work := w, idx := s.ibus.dec.idx + 1 } }
          reply := some ⟨.ok, 0, []⟩ }) ∧
      (s.ibus.dec.idx.toNat + 1 = s.ibus.size.toNat → s.ibus.size = 4 →
        exec (.ibusFeed b) s = .next { s with
          ibus := { s.ibus with dec := { s.ibus.dec with work := w, idx := 0 } }
          reply := some ⟨.ok, 0, []⟩ }) ∧
      (s.ibus.dec.idx.toNat + 1 = s.ibus.size.toNat → s.ibus.size ≠ 4 →
        ∃ t : Memory, (∀ i, t.read i = if i < s.ibus.size.toNat then w.read i else s.ibus.dec.stable.read i) ∧
          exec (.ibusFeed b) s = .next { s with
            ibus := { s.ibus with
              soffset := s.ibus.offset, sseed := s.ibus.seed
              dec := { s.ibus.dec with
                work := w, stable := t, slen := s.ibus.size, empty := false, ready := true,
                rxcount := s.ibus.dec.rxcount + 1, idx := 0 } }
            reply := some ⟨.ok, 1, []⟩ })

/-- IBUS.UNPACK of an unconsumed frame whose sum over its 14 slots is its checksum: the frame is consumed, CH[i] is the low byte of
slot i with the low nibble of its high byte above it, CH[14+k] the high nibbles of slots 3k, 3k+1, 3k+2, lowest first, and the
result is 1 (R240 to R243, 44_validators.md R265, R266).
The extension channels' nibble order is the spec's decision D16, from general knowledge (log 11). -/
def Obligations.IbusUnpackDecodesChannels : Prop :=
  ∀ s : State, s.ibus.dec.empty = false →
    (s.ibus.dec.slen = 32 ∧ s.ibus.soffset = 2 ∧ s.ibus.sseed = 0xFFFF) ∨
      (s.ibus.dec.slen = 31 ∧ s.ibus.soffset = 1 ∧ s.ibus.sseed = 0) →
    (s.ibus.sseed.toNat + ∑ j : Fin 14, ((s.ibus.dec.stable.read (s.ibus.soffset.toNat + 2 * j.val)).toNat
        + 2 ^ 8 * (s.ibus.dec.stable.read (s.ibus.soffset.toNat + 2 * j.val + 1)).toNat)) % 2 ^ 16
      = (s.ibus.dec.stable.read (s.ibus.dec.slen.toNat - 2)).toNat
        + 2 ^ 8 * (s.ibus.dec.stable.read (s.ibus.dec.slen.toNat - 1)).toNat →
    ∃ ch : Vector Half 18,
      (∀ i : Fin 18, i.val < 14 → ch[i].toNat =
        (s.ibus.dec.stable.read (s.ibus.soffset.toNat + 2 * i.val)).toNat
          + 2 ^ 8 * ((s.ibus.dec.stable.read (s.ibus.soffset.toNat + 2 * i.val + 1)).toNat % 2 ^ 4)) ∧
      (∀ (i : Fin 18) (k : Nat), i.val = 14 + k → ch[i].toNat =
        (s.ibus.dec.stable.read (s.ibus.soffset.toNat + 1 + 6 * k)).toNat / 2 ^ 4
          + 2 ^ 4 * ((s.ibus.dec.stable.read (s.ibus.soffset.toNat + 1 + 6 * k + 2)).toNat / 2 ^ 4)
          + 2 ^ 8 * ((s.ibus.dec.stable.read (s.ibus.soffset.toNat + 1 + 6 * k + 4)).toNat / 2 ^ 4)) ∧
      exec .ibusUnpack s = .next { s with
        ibus := { s.ibus with ch := ch, dec := { s.ibus.dec with empty := true } }
        reply := some ⟨.ok, 1, []⟩ }

/-- IBUS.UNPACK otherwise: an empty unit returns 0 and changes nothing; a frame whose sum is not its checksum is consumed with
result 0 and leaves every channel as it was (R240, R243, 60_exceptions.md R401). -/
def Obligations.IbusUnpackRejects : Prop :=
  ∀ s : State,
    (s.ibus.dec.empty = true → exec .ibusUnpack s = .next { s with reply := some ⟨.ok, 0, []⟩ }) ∧
    (s.ibus.dec.empty = false →
      (s.ibus.dec.slen = 32 ∧ s.ibus.soffset = 2 ∧ s.ibus.sseed = 0xFFFF) ∨
        (s.ibus.dec.slen = 31 ∧ s.ibus.soffset = 1 ∧ s.ibus.sseed = 0) →
      (s.ibus.sseed.toNat + ∑ j : Fin 14, ((s.ibus.dec.stable.read (s.ibus.soffset.toNat + 2 * j.val)).toNat
          + 2 ^ 8 * (s.ibus.dec.stable.read (s.ibus.soffset.toNat + 2 * j.val + 1)).toNat)) % 2 ^ 16
        ≠ (s.ibus.dec.stable.read (s.ibus.dec.slen.toNat - 2)).toNat
          + 2 ^ 8 * (s.ibus.dec.stable.read (s.ibus.dec.slen.toNat - 1)).toNat →
      exec .ibusUnpack s = .next { s with
        ibus := { s.ibus with dec := { s.ibus.dec with empty := true } }
        reply := some ⟨.ok, 0, []⟩ })

/-! ## PeerTransceiver -/

/-- PT.SETUP_PRIMARY registers the primary slot with its channel, encryption flag and capacity and clears LEN; a capacity above 256
fails with ARG and no state change (45_peer_transceiver.md R283, R285). -/
def Obligations.PtSetupPrimaryRegisters : Prop :=
  ∀ (s : State) (enc : Bool) (ch : Byte) (cap : Half),
    (cap.toNat ≤ 256 →
      exec (.ptSetupPrimary enc ch cap) s = .next { s with
        pt := { s.pt with pri := { s.pt.pri with reg := true, chan := ch, enc := enc, cap := cap, len := 0 } }
        reply := some ⟨.ok, 0, []⟩ }) ∧
    (256 < cap.toNat → ∃ s', exec (.ptSetupPrimary enc ch cap) s = .next s' ∧ Failed s .arg s')

/-- PT.SET_PRIMARY_ADDR: FAIL once the primary is bound; else ARG for the broadcast address, the unset address or the secondary's;
else the address is set and the primary bound (R286, 60_exceptions.md R412). -/
def Obligations.PtSetPrimaryAddrBindsOnce : Prop :=
  ∀ (s : State) (a : Addr),
    (s.pt.pri.aset = true → ∃ s', exec (.ptSetPrimaryAddr a) s = .next s' ∧ Failed s .fail s') ∧
    (s.pt.pri.aset = false →
      a = ⟨0xFF, 0xFF, 0xFF, 0xFF, 0xFF, 0xFF⟩ ∨ a = ⟨0, 0, 0, 0, 0, 0⟩ ∨ (s.pt.sec.aset = true ∧ a = s.pt.sec.addr) →
      ∃ s', exec (.ptSetPrimaryAddr a) s = .next s' ∧ Failed s .arg s') ∧
    (s.pt.pri.aset = false → a ≠ ⟨0xFF, 0xFF, 0xFF, 0xFF, 0xFF, 0xFF⟩ → a ≠ ⟨0, 0, 0, 0, 0, 0⟩ →
      (s.pt.sec.aset = true → a ≠ s.pt.sec.addr) →
      exec (.ptSetPrimaryAddr a) s = .next { s with
        pt := { s.pt with pri := { s.pt.pri with addr := a, aset := true } }
        reply := some ⟨.ok, 0, []⟩ })

/-- PT.ADD_SECONDARY registers or replaces the secondary slot, with the address given or with none; a capacity above 256, a
forbidden address or the bound primary's fails with ARG and no state change (R283, R287, R288). -/
def Obligations.PtAddSecondaryReplacesSlot : Prop :=
  ∀ (s : State) (enc : Bool) (ch : Byte) (cap : Half),
    (cap.toNat ≤ 256 →
      exec (.ptAddSecondary enc ch cap none) s = .next { s with
        pt := { s.pt with sec := { s.pt.sec with
          reg := true, chan := ch, enc := enc, cap := cap, len := 0, addr := ⟨0, 0, 0, 0, 0, 0⟩, aset := false } }
        reply := some ⟨.ok, 0, []⟩ }) ∧
    (∀ a : Addr, cap.toNat ≤ 256 → a ≠ ⟨0xFF, 0xFF, 0xFF, 0xFF, 0xFF, 0xFF⟩ → a ≠ ⟨0, 0, 0, 0, 0, 0⟩ →
      (s.pt.pri.aset = true → a ≠ s.pt.pri.addr) →
      exec (.ptAddSecondary enc ch cap (some a)) s = .next { s with
        pt := { s.pt with sec := { s.pt.sec with
          reg := true, chan := ch, enc := enc, cap := cap, len := 0, addr := a, aset := true } }
        reply := some ⟨.ok, 0, []⟩ }) ∧
    (∀ o : Option Addr, 256 < cap.toNat ∨
        (∃ a, o = some a ∧ (a = ⟨0xFF, 0xFF, 0xFF, 0xFF, 0xFF, 0xFF⟩ ∨ a = ⟨0, 0, 0, 0, 0, 0⟩ ∨
          (s.pt.pri.aset = true ∧ a = s.pt.pri.addr))) →
      ∃ s', exec (.ptAddSecondary enc ch cap o) s = .next s' ∧ Failed s .arg s')

/-- PT.RX from the bound primary, or from the sender that binds it (primary set up and unbound, source neither broadcast, unset
nor the secondary's address): min(L, CAP) bytes are copied, LEN set, the counter and the tick delta updated, READY[PRI] set, the
result 1; the binding is made in the same step (R290, R291, R293, R294, R295). -/
def Obligations.PtRxDeliversToPrimary : Prop :=
  ∀ (s : State) (src : Addr) (data : List Byte),
    src ≠ ⟨0xFF, 0xFF, 0xFF, 0xFF, 0xFF, 0xFF⟩ → s.pt.pri.reg = true →
    (s.pt.pri.aset = true ∧ src = s.pt.pri.addr) ∨
      (s.pt.pri.aset = false ∧ src ≠ ⟨0, 0, 0, 0, 0, 0⟩ ∧ src ≠ s.pt.sec.addr) →
    SlotInv s.pt.pri →
    ∃ buf : Memory,
      (∀ i, buf.read i =
        if h : i < data.length ∧ i < s.pt.pri.cap.toNat then data[i]'h.1 else s.pt.pri.buf.read i) ∧
      exec (.ptRx src data) s = .next { s with
        pt := { s.pt with
          pri := { s.pt.pri with
            addr := src, aset := true, buf := buf, len := BitVec.ofNat 16 (min data.length s.pt.pri.cap.toNat) }
          rxcount := s.pt.rxcount + 1, tickDelta := s.env.tick - s.pt.lastTick, lastTick := s.env.tick, readyPri := true }
        reply := some ⟨.ok, 1, []⟩ }

/-- PT.RX from the registered secondary: min(L, CAP) bytes are copied, LEN and READY[SEC] set, the result 2; the primary's
counters and the primary slot do not change (R290, R292 to R295). -/
def Obligations.PtRxDeliversToSecondary : Prop :=
  ∀ (s : State) (src : Addr) (data : List Byte),
    src ≠ ⟨0xFF, 0xFF, 0xFF, 0xFF, 0xFF, 0xFF⟩ → s.pt.sec.reg = true → s.pt.sec.aset = true → src = s.pt.sec.addr →
    ¬ (s.pt.pri.reg = true ∧ s.pt.pri.aset = true ∧ src = s.pt.pri.addr) → SlotInv s.pt.sec →
    ∃ buf : Memory,
      (∀ i, buf.read i =
        if h : i < data.length ∧ i < s.pt.sec.cap.toNat then data[i]'h.1 else s.pt.sec.buf.read i) ∧
      exec (.ptRx src data) s = .next { s with
        pt := { s.pt with
          sec := { s.pt.sec with buf := buf, len := BitVec.ofNat 16 (min data.length s.pt.sec.cap.toNat) }
          readySec := true }
        reply := some ⟨.ok, 2, []⟩ }

/-- PT.RX of foreign traffic changes no state and returns 0: a broadcast source; a source that is neither the bound primary's nor
the registered secondary's address and cannot bind (R290, R292, 60_exceptions.md R403). -/
def Obligations.PtRxDiscardsForeign : Prop :=
  ∀ (s : State) (src : Addr) (data : List Byte),
    src = ⟨0xFF, 0xFF, 0xFF, 0xFF, 0xFF, 0xFF⟩ ∨
      (¬ (s.pt.pri.reg = true ∧ s.pt.pri.aset = true ∧ src = s.pt.pri.addr) ∧
       ¬ (s.pt.pri.reg = true ∧ s.pt.pri.aset = false ∧ src ≠ ⟨0, 0, 0, 0, 0, 0⟩ ∧ src ≠ s.pt.sec.addr) ∧
       ¬ (s.pt.sec.reg = true ∧ s.pt.sec.aset = true ∧ src = s.pt.sec.addr)) →
    exec (.ptRx src data) s = .next { s with reply := some ⟨.ok, 0, []⟩ }

/-- PT.SEND. ARG for null or empty data, the reserved slot or a string longer than RADIO_MAX_LEN; else UNBOUND for a peer whose
address is not set; a failed check sends nothing. Otherwise one request is emitted, to the fixed all-ones address for the broadcast
slot and to the slot's address for the primary and secondary, and the command ends with OK or, where the driver refuses, with RADIO.
No register changes (R296, R297, 60_exceptions.md R412).
The list of requests emitted is the model's form of RADIO_TX (log 14). -/
def Obligations.PtSendTransmits : Prop :=
  ∀ (s : State) (p : PeerId) (isNull : Bool) (data : List Byte),
    (isNull = true ∨ data = [] ∨ p = .rsv ∨ Config.radioMaxLen < data.length →
      ∃ s', exec (.ptSend p isNull data) s = .next s' ∧ Failed s .arg s') ∧
    (isNull = false → data ≠ [] → data.length ≤ Config.radioMaxLen →
      ((p = .pri ∧ s.pt.pri.aset = false) ∨ (p = .sec ∧ s.pt.sec.aset = false) →
        ∃ s', exec (.ptSend p isNull data) s = .next s' ∧ Failed s .unbound s') ∧
      (p = .bcast ∨ (p = .pri ∧ s.pt.pri.aset = true) ∨ (p = .sec ∧ s.pt.sec.aset = true) →
        ∃ dest : Addr,
          (p = .bcast → dest = ⟨0xFF, 0xFF, 0xFF, 0xFF, 0xFF, 0xFF⟩) ∧ (p = .pri → dest = s.pt.pri.addr) ∧
          (p = .sec → dest = s.pt.sec.addr) ∧
          (s.env.radioOk = true → exec (.ptSend p isNull data) s = .next { s with
            radioTx := s.radioTx ++ [⟨dest, data⟩], reply := some ⟨.ok, 0, []⟩ }) ∧
          (s.env.radioOk = false → ∃ s', exec (.ptSend p isNull data) s = .next s' ∧
            Failed { s with radioTx := s.radioTx ++ [⟨dest, data⟩] } .radio s')))

/-- PT.BCAST_ID's start step: N = 0 ends at once with OK; any other N leaves N sends to perform, one per later step of the
consumer, and returns nothing yet (R298). -/
def Obligations.PtBcastIdStarts : Prop :=
  ∀ (s : State) (n : Byte) (dly : Half),
    (n = 0 → exec (.ptBcastId n dly) s = .next { s with reply := some ⟨.ok, 0, []⟩ }) ∧
    (n ≠ 0 → exec (.ptBcastId n dly) s = .next { s with
      pt := { s.pt with bidActive := true, bidLeft := n }, reply := none })

/-- An announcement with n sends left, whose consumer gets k turns in which the radio accepts every packet: k < n leaves n − k
sends, k = n ends it with OK; either way exactly k bind packets have gone to the broadcast address and no register but BID_ACTIVE
and BID_LEFT has changed (R298, R299).
Turns and the list of requests emitted are the model's form of the spec's ports (logs 1, 14). -/
def Obligations.PtBcastIdSends : Prop :=
  ∀ (s : State) (ts rest : List Turn),
    s.pt.bidActive = true → s.pt.bidLeft ≠ 0 → ts ≠ [] → ts.length ≤ s.pt.bidLeft.toNat → s.turns = ts ++ rest →
    (∀ t ∈ ts, t.agent = .consumer ∧ t.env.radioOk = true) →
    ∃ e, Host.Core.run Sys2Proof.core ts.length s = .next { s with
      turns := rest, env := e
      radioTx := s.radioTx ++
        List.replicate ts.length ⟨⟨0xFF, 0xFF, 0xFF, 0xFF, 0xFF, 0xFF⟩, Config.bindPacket Config.myChannel Config.myAddr⟩
      reply := if ts.length = s.pt.bidLeft.toNat then some ⟨.ok, 0, []⟩ else none
      pt := { s.pt with
        bidActive := decide (ts.length < s.pt.bidLeft.toNat)
        bidLeft := s.pt.bidLeft - BitVec.ofNat 8 ts.length } }

/-- The first send of an announcement that the radio refuses ends it: RADIO, BID_ACTIVE and BID_LEFT cleared, no further send
(R298, 60_exceptions.md R409).
Turns and the list of requests emitted are the model's form of the spec's ports (logs 1, 14). -/
def Obligations.PtBcastIdAborts : Prop :=
  ∀ (s : State) (e : Env) (ts : List Turn),
    s.turns = ⟨.consumer, e⟩ :: ts → s.pt.bidActive = true → e.radioOk = false →
    ∃ s', step s = .next s' ∧ Failed { s with
      turns := ts, env := e
      radioTx := s.radioTx ++ [⟨⟨0xFF, 0xFF, 0xFF, 0xFF, 0xFF, 0xFF⟩, Config.bindPacket Config.myChannel Config.myAddr⟩]
      pt := { s.pt with bidActive := false, bidLeft := 0 } } .radio s'

/-- PT.GET_MY_ID returns value 0 and MY_ADDR, PT.GET_PRIMARY_ID ASET and the primary's address, byte 0 first, PT.RXCOUNT and
PT.TICKDELTA their registers; none changes any state (R300, R301, R306, R307). -/
def Obligations.PtRegisterReadout : Prop :=
  ∀ s : State,
    exec .ptGetMyId s = .next { s with reply := some ⟨.ok, 0, [Config.myAddr.a0, Config.myAddr.a1, Config.myAddr.a2,
      Config.myAddr.a3, Config.myAddr.a4, Config.myAddr.a5]⟩ } ∧
    exec .ptGetPrimaryId s = .next { s with reply := some ⟨.ok, if s.pt.pri.aset then 1 else 0,
      [s.pt.pri.addr.a0, s.pt.pri.addr.a1, s.pt.pri.addr.a2, s.pt.pri.addr.a3, s.pt.pri.addr.a4, s.pt.pri.addr.a5]⟩ } ∧
    exec .ptRxcount s = .next { s with reply := some ⟨.ok, s.pt.rxcount, []⟩ } ∧
    exec .ptTickdelta s = .next { s with reply := some ⟨.ok, s.pt.tickDelta, []⟩ }

/-- PT.TAKE returns and clears the peer's signal, PT.WAIT takes a set one with result 1 in either mode (R303, R304). -/
def Obligations.PtTakeAndWaitTakeSignal : Prop :=
  ∀ (s : State) (m : WaitMode),
    exec (.ptTake .pri) s = .next { s with
      pt := { s.pt with readyPri := false }, reply := some ⟨.ok, if s.pt.readyPri then 1 else 0, []⟩ } ∧
    exec (.ptTake .sec) s = .next { s with
      pt := { s.pt with readySec := false }, reply := some ⟨.ok, if s.pt.readySec then 1 else 0, []⟩ } ∧
    (s.pt.readyPri = true → exec (.ptWait .pri m) s = .next { s with
      pt := { s.pt with readyPri := false }, reply := some ⟨.ok, 1, []⟩ }) ∧
    (s.pt.readySec = true → exec (.ptWait .sec m) s = .next { s with
      pt := { s.pt with readySec := false }, reply := some ⟨.ok, 1, []⟩ })

/-- PT.READBUF returns the byte at an index below CAP and fails with ARG at any other, PT.GETLEN returns the length, of the primary or
secondary slot; on the broadcast or the reserved slot PT.READBUF, PT.TAKE, PT.WAIT and PT.GETLEN fail with ARG. No state changes
(R280, R282, R302, R305). -/
def Obligations.PtBufferReadout : Prop :=
  ∀ (s : State) (p : PeerId) (x : Byte),
    (p = .pri ∨ p = .sec →
      (x.toNat < (s.pt.slot p).cap.toNat → exec (.ptReadbuf p x) s = .next { s with
        reply := some ⟨.ok, ((s.pt.slot p).buf.read x.toNat).setWidth 32, []⟩ }) ∧
      ((s.pt.slot p).cap.toNat ≤ x.toNat → ∃ s', exec (.ptReadbuf p x) s = .next s' ∧ Failed s .arg s') ∧
      exec (.ptGetlen p) s = .next { s with reply := some ⟨.ok, (s.pt.slot p).len.setWidth 32, []⟩ }) ∧
    (p = .bcast ∨ p = .rsv → ∀ (m : WaitMode) (i : Instr), i ∈ [Instr.ptReadbuf p x, .ptTake p, .ptWait p m, .ptGetlen p] →
      ∃ s', exec i s = .next s' ∧ Failed s .arg s')
end

