-- ==== Sys2Proof/Laws/State.lean ====
section
/-! SUPPORT. What each update of the state leaves in each field: one lemma per field per update, true by rfl. -/

namespace Sys2Proof.Machine

/-! ## finish -/

@[simp] theorem State.finish_crsf (s : State) (v : Word) : (s.finish v).crsf = s.crsf := rfl
@[simp] theorem State.finish_sbus (s : State) (v : Word) : (s.finish v).sbus = s.sbus := rfl
@[simp] theorem State.finish_ibus (s : State) (v : Word) : (s.finish v).ibus = s.ibus := rfl
@[simp] theorem State.finish_pt (s : State) (v : Word) : (s.finish v).pt = s.pt := rfl
@[simp] theorem State.finish_byteInCrsf (s : State) (v : Word) : (s.finish v).byteInCrsf = s.byteInCrsf := rfl
@[simp] theorem State.finish_byteInSbus (s : State) (v : Word) : (s.finish v).byteInSbus = s.byteInSbus := rfl
@[simp] theorem State.finish_byteInIbus (s : State) (v : Word) : (s.finish v).byteInIbus = s.byteInIbus := rfl
@[simp] theorem State.finish_radioRx (s : State) (v : Word) : (s.finish v).radioRx = s.radioRx := rfl
@[simp] theorem State.finish_cmd (s : State) (v : Word) : (s.finish v).cmd = s.cmd := rfl
@[simp] theorem State.finish_turns (s : State) (v : Word) : (s.finish v).turns = s.turns := rfl
@[simp] theorem State.finish_env (s : State) (v : Word) : (s.finish v).env = s.env := rfl
@[simp] theorem State.finish_waiting (s : State) (v : Word) : (s.finish v).waiting = s.waiting := rfl
@[simp] theorem State.finish_reply (s : State) (v : Word) : (s.finish v).reply = some ⟨.ok, v, []⟩ := rfl
@[simp] theorem State.finish_radioTx (s : State) (v : Word) : (s.finish v).radioTx = s.radioTx := rfl
@[simp] theorem State.finish_freeCount (s : State) (v : Word) : (s.finish v).freeCount = s.freeCount := rfl

/-! ## finishBytes -/

@[simp] theorem State.finishBytes_crsf (s : State) (v : Word) (bs : List Byte) : (s.finishBytes v bs).crsf = s.crsf := rfl
@[simp] theorem State.finishBytes_sbus (s : State) (v : Word) (bs : List Byte) : (s.finishBytes v bs).sbus = s.sbus := rfl
@[simp] theorem State.finishBytes_ibus (s : State) (v : Word) (bs : List Byte) : (s.finishBytes v bs).ibus = s.ibus := rfl
@[simp] theorem State.finishBytes_pt (s : State) (v : Word) (bs : List Byte) : (s.finishBytes v bs).pt = s.pt := rfl
@[simp] theorem State.finishBytes_byteInCrsf (s : State) (v : Word) (bs : List Byte) : (s.finishBytes v bs).byteInCrsf = s.byteInCrsf := rfl
@[simp] theorem State.finishBytes_byteInSbus (s : State) (v : Word) (bs : List Byte) : (s.finishBytes v bs).byteInSbus = s.byteInSbus := rfl
@[simp] theorem State.finishBytes_byteInIbus (s : State) (v : Word) (bs : List Byte) : (s.finishBytes v bs).byteInIbus = s.byteInIbus := rfl
@[simp] theorem State.finishBytes_radioRx (s : State) (v : Word) (bs : List Byte) : (s.finishBytes v bs).radioRx = s.radioRx := rfl
@[simp] theorem State.finishBytes_cmd (s : State) (v : Word) (bs : List Byte) : (s.finishBytes v bs).cmd = s.cmd := rfl
@[simp] theorem State.finishBytes_turns (s : State) (v : Word) (bs : List Byte) : (s.finishBytes v bs).turns = s.turns := rfl
@[simp] theorem State.finishBytes_env (s : State) (v : Word) (bs : List Byte) : (s.finishBytes v bs).env = s.env := rfl
@[simp] theorem State.finishBytes_waiting (s : State) (v : Word) (bs : List Byte) : (s.finishBytes v bs).waiting = s.waiting := rfl
@[simp] theorem State.finishBytes_reply (s : State) (v : Word) (bs : List Byte) : (s.finishBytes v bs).reply = some ⟨.ok, v, bs⟩ := rfl
@[simp] theorem State.finishBytes_radioTx (s : State) (v : Word) (bs : List Byte) : (s.finishBytes v bs).radioTx = s.radioTx := rfl
@[simp] theorem State.finishBytes_freeCount (s : State) (v : Word) (bs : List Byte) : (s.finishBytes v bs).freeCount = s.freeCount := rfl

/-! ## failWith -/

@[simp] theorem State.failWith_crsf (s : State) (st : Status) : (s.failWith st).crsf = s.crsf := rfl
@[simp] theorem State.failWith_sbus (s : State) (st : Status) : (s.failWith st).sbus = s.sbus := rfl
@[simp] theorem State.failWith_ibus (s : State) (st : Status) : (s.failWith st).ibus = s.ibus := rfl
@[simp] theorem State.failWith_pt (s : State) (st : Status) : (s.failWith st).pt = s.pt := rfl
@[simp] theorem State.failWith_byteInCrsf (s : State) (st : Status) : (s.failWith st).byteInCrsf = s.byteInCrsf := rfl
@[simp] theorem State.failWith_byteInSbus (s : State) (st : Status) : (s.failWith st).byteInSbus = s.byteInSbus := rfl
@[simp] theorem State.failWith_byteInIbus (s : State) (st : Status) : (s.failWith st).byteInIbus = s.byteInIbus := rfl
@[simp] theorem State.failWith_radioRx (s : State) (st : Status) : (s.failWith st).radioRx = s.radioRx := rfl
@[simp] theorem State.failWith_cmd (s : State) (st : Status) : (s.failWith st).cmd = s.cmd := rfl
@[simp] theorem State.failWith_turns (s : State) (st : Status) : (s.failWith st).turns = s.turns := rfl
@[simp] theorem State.failWith_env (s : State) (st : Status) : (s.failWith st).env = s.env := rfl
@[simp] theorem State.failWith_waiting (s : State) (st : Status) : (s.failWith st).waiting = s.waiting := rfl
@[simp] theorem State.failWith_reply (s : State) (st : Status) : (s.failWith st).reply = some ⟨st, Config.failValue s.freeCount, []⟩ := rfl
@[simp] theorem State.failWith_radioTx (s : State) (st : Status) : (s.failWith st).radioTx = s.radioTx := rfl
@[simp] theorem State.failWith_freeCount (s : State) (st : Status) : (s.failWith st).freeCount = s.freeCount + 1 := rfl

/-! ## block -/

@[simp] theorem State.block_crsf (s : State) (w : PendingWait) : (s.block w).crsf = s.crsf := rfl
@[simp] theorem State.block_sbus (s : State) (w : PendingWait) : (s.block w).sbus = s.sbus := rfl
@[simp] theorem State.block_ibus (s : State) (w : PendingWait) : (s.block w).ibus = s.ibus := rfl
@[simp] theorem State.block_pt (s : State) (w : PendingWait) : (s.block w).pt = s.pt := rfl
@[simp] theorem State.block_byteInCrsf (s : State) (w : PendingWait) : (s.block w).byteInCrsf = s.byteInCrsf := rfl
@[simp] theorem State.block_byteInSbus (s : State) (w : PendingWait) : (s.block w).byteInSbus = s.byteInSbus := rfl
@[simp] theorem State.block_byteInIbus (s : State) (w : PendingWait) : (s.block w).byteInIbus = s.byteInIbus := rfl
@[simp] theorem State.block_radioRx (s : State) (w : PendingWait) : (s.block w).radioRx = s.radioRx := rfl
@[simp] theorem State.block_cmd (s : State) (w : PendingWait) : (s.block w).cmd = s.cmd := rfl
@[simp] theorem State.block_turns (s : State) (w : PendingWait) : (s.block w).turns = s.turns := rfl
@[simp] theorem State.block_env (s : State) (w : PendingWait) : (s.block w).env = s.env := rfl
@[simp] theorem State.block_waiting (s : State) (w : PendingWait) : (s.block w).waiting = some w := rfl
@[simp] theorem State.block_reply (s : State) (w : PendingWait) : (s.block w).reply = none := rfl
@[simp] theorem State.block_radioTx (s : State) (w : PendingWait) : (s.block w).radioTx = s.radioTx := rfl
@[simp] theorem State.block_freeCount (s : State) (w : PendingWait) : (s.block w).freeCount = s.freeCount := rfl

/-! ## proceed -/

@[simp] theorem State.proceed_crsf (s : State) : (s.proceed).crsf = s.crsf := rfl
@[simp] theorem State.proceed_sbus (s : State) : (s.proceed).sbus = s.sbus := rfl
@[simp] theorem State.proceed_ibus (s : State) : (s.proceed).ibus = s.ibus := rfl
@[simp] theorem State.proceed_pt (s : State) : (s.proceed).pt = s.pt := rfl
@[simp] theorem State.proceed_byteInCrsf (s : State) : (s.proceed).byteInCrsf = s.byteInCrsf := rfl
@[simp] theorem State.proceed_byteInSbus (s : State) : (s.proceed).byteInSbus = s.byteInSbus := rfl
@[simp] theorem State.proceed_byteInIbus (s : State) : (s.proceed).byteInIbus = s.byteInIbus := rfl
@[simp] theorem State.proceed_radioRx (s : State) : (s.proceed).radioRx = s.radioRx := rfl
@[simp] theorem State.proceed_cmd (s : State) : (s.proceed).cmd = s.cmd := rfl
@[simp] theorem State.proceed_turns (s : State) : (s.proceed).turns = s.turns := rfl
@[simp] theorem State.proceed_env (s : State) : (s.proceed).env = s.env := rfl
@[simp] theorem State.proceed_waiting (s : State) : (s.proceed).waiting = s.waiting := rfl
@[simp] theorem State.proceed_reply (s : State) : (s.proceed).reply = none := rfl
@[simp] theorem State.proceed_radioTx (s : State) : (s.proceed).radioTx = s.radioTx := rfl
@[simp] theorem State.proceed_freeCount (s : State) : (s.proceed).freeCount = s.freeCount := rfl

/-! ## emit -/

@[simp] theorem State.emit_crsf (s : State) (a : Addr) (d : List Byte) : (s.emit a d).crsf = s.crsf := rfl
@[simp] theorem State.emit_sbus (s : State) (a : Addr) (d : List Byte) : (s.emit a d).sbus = s.sbus := rfl
@[simp] theorem State.emit_ibus (s : State) (a : Addr) (d : List Byte) : (s.emit a d).ibus = s.ibus := rfl
@[simp] theorem State.emit_pt (s : State) (a : Addr) (d : List Byte) : (s.emit a d).pt = s.pt := rfl
@[simp] theorem State.emit_byteInCrsf (s : State) (a : Addr) (d : List Byte) : (s.emit a d).byteInCrsf = s.byteInCrsf := rfl
@[simp] theorem State.emit_byteInSbus (s : State) (a : Addr) (d : List Byte) : (s.emit a d).byteInSbus = s.byteInSbus := rfl
@[simp] theorem State.emit_byteInIbus (s : State) (a : Addr) (d : List Byte) : (s.emit a d).byteInIbus = s.byteInIbus := rfl
@[simp] theorem State.emit_radioRx (s : State) (a : Addr) (d : List Byte) : (s.emit a d).radioRx = s.radioRx := rfl
@[simp] theorem State.emit_cmd (s : State) (a : Addr) (d : List Byte) : (s.emit a d).cmd = s.cmd := rfl
@[simp] theorem State.emit_turns (s : State) (a : Addr) (d : List Byte) : (s.emit a d).turns = s.turns := rfl
@[simp] theorem State.emit_env (s : State) (a : Addr) (d : List Byte) : (s.emit a d).env = s.env := rfl
@[simp] theorem State.emit_waiting (s : State) (a : Addr) (d : List Byte) : (s.emit a d).waiting = s.waiting := rfl
@[simp] theorem State.emit_reply (s : State) (a : Addr) (d : List Byte) : (s.emit a d).reply = s.reply := rfl
@[simp] theorem State.emit_radioTx (s : State) (a : Addr) (d : List Byte) : (s.emit a d).radioTx = s.radioTx ++ [⟨a, d⟩] := rfl
@[simp] theorem State.emit_freeCount (s : State) (a : Addr) (d : List Byte) : (s.emit a d).freeCount = s.freeCount := rfl

/-! ## beginTurn -/

@[simp] theorem State.beginTurn_crsf (s : State) (t : Turn) (ts : List Turn) : (s.beginTurn t ts).crsf = s.crsf := rfl
@[simp] theorem State.beginTurn_sbus (s : State) (t : Turn) (ts : List Turn) : (s.beginTurn t ts).sbus = s.sbus := rfl
@[simp] theorem State.beginTurn_ibus (s : State) (t : Turn) (ts : List Turn) : (s.beginTurn t ts).ibus = s.ibus := rfl
@[simp] theorem State.beginTurn_pt (s : State) (t : Turn) (ts : List Turn) : (s.beginTurn t ts).pt = s.pt := rfl
@[simp] theorem State.beginTurn_byteInCrsf (s : State) (t : Turn) (ts : List Turn) : (s.beginTurn t ts).byteInCrsf = s.byteInCrsf := rfl
@[simp] theorem State.beginTurn_byteInSbus (s : State) (t : Turn) (ts : List Turn) : (s.beginTurn t ts).byteInSbus = s.byteInSbus := rfl
@[simp] theorem State.beginTurn_byteInIbus (s : State) (t : Turn) (ts : List Turn) : (s.beginTurn t ts).byteInIbus = s.byteInIbus := rfl
@[simp] theorem State.beginTurn_radioRx (s : State) (t : Turn) (ts : List Turn) : (s.beginTurn t ts).radioRx = s.radioRx := rfl
@[simp] theorem State.beginTurn_cmd (s : State) (t : Turn) (ts : List Turn) : (s.beginTurn t ts).cmd = s.cmd := rfl
@[simp] theorem State.beginTurn_turns (s : State) (t : Turn) (ts : List Turn) : (s.beginTurn t ts).turns = ts := rfl
@[simp] theorem State.beginTurn_env (s : State) (t : Turn) (ts : List Turn) : (s.beginTurn t ts).env = t.env := rfl
@[simp] theorem State.beginTurn_waiting (s : State) (t : Turn) (ts : List Turn) : (s.beginTurn t ts).waiting = s.waiting := rfl
@[simp] theorem State.beginTurn_reply (s : State) (t : Turn) (ts : List Turn) : (s.beginTurn t ts).reply = none := rfl
@[simp] theorem State.beginTurn_radioTx (s : State) (t : Turn) (ts : List Turn) : (s.beginTurn t ts).radioTx = s.radioTx := rfl
@[simp] theorem State.beginTurn_freeCount (s : State) (t : Turn) (ts : List Turn) : (s.beginTurn t ts).freeCount = s.freeCount := rfl

/-! ## Decoder registers -/

@[simp] theorem Decoder.reject_idx (d : Decoder) : d.reject.idx = d.idx := rfl
@[simp] theorem Decoder.reject_work (d : Decoder) : d.reject.work = d.work := rfl
@[simp] theorem Decoder.reject_stable (d : Decoder) : d.reject.stable = d.stable := rfl
@[simp] theorem Decoder.reject_slen (d : Decoder) : d.reject.slen = d.slen := rfl
@[simp] theorem Decoder.reject_start (d : Decoder) : d.reject.start = d.start := rfl
@[simp] theorem Decoder.reject_empty (d : Decoder) : d.reject.empty = true := rfl
@[simp] theorem Decoder.reject_ready (d : Decoder) : d.reject.ready = d.ready := rfl
@[simp] theorem Decoder.reject_dropped (d : Decoder) : d.reject.dropped = d.dropped := rfl
@[simp] theorem Decoder.reject_rxcount (d : Decoder) : d.reject.rxcount = d.rxcount := rfl

@[simp] theorem Decoder.accept_idx (d : Decoder) (b : Byte) (t : Word) : (d.accept b t).idx = 1 := rfl
@[simp] theorem Decoder.accept_work (d : Decoder) (b : Byte) (t : Word) : (d.accept b t).work = d.work.write 0 b := rfl
@[simp] theorem Decoder.accept_stable (d : Decoder) (b : Byte) (t : Word) : (d.accept b t).stable = d.stable := rfl
@[simp] theorem Decoder.accept_slen (d : Decoder) (b : Byte) (t : Word) : (d.accept b t).slen = d.slen := rfl
@[simp] theorem Decoder.accept_start (d : Decoder) (b : Byte) (t : Word) : (d.accept b t).start = t := rfl
@[simp] theorem Decoder.accept_empty (d : Decoder) (b : Byte) (t : Word) : (d.accept b t).empty = d.empty := rfl
@[simp] theorem Decoder.accept_ready (d : Decoder) (b : Byte) (t : Word) : (d.accept b t).ready = d.ready := rfl
@[simp] theorem Decoder.accept_dropped (d : Decoder) (b : Byte) (t : Word) : (d.accept b t).dropped = d.dropped := rfl
@[simp] theorem Decoder.accept_rxcount (d : Decoder) (b : Byte) (t : Word) : (d.accept b t).rxcount = d.rxcount := rfl

/-! ## Reset -/

/-- Every buffer of the reset state has the canonical form. -/
theorem State.reset_memories_wf :
    ∀ m ∈ [State.reset.crsf.dec.work, State.reset.crsf.dec.stable, State.reset.sbus.dec.work, State.reset.sbus.dec.stable,
      State.reset.ibus.dec.work, State.reset.ibus.dec.stable, State.reset.pt.bcast.buf, State.reset.pt.pri.buf,
      State.reset.pt.sec.buf, State.reset.pt.rsv.buf], m.wf = true := by
  intro m hm
  simp only [State.reset, CrsfUnit.reset, SbusUnit.reset, IbusUnit.reset, Decoder.reset, Transceiver.reset, Slot.resetBcast,
    Slot.resetOther, List.mem_cons, List.not_mem_nil, or_false, or_self] at hm
  subst hm
  rfl

end Sys2Proof.Machine
end

