-- ==== Sys2Proof/Laws/Flags.lean ====
section
/-! SUPPORT. The status word by its fields (spec/10_state.md R38) and all that a WAIT can do (spec/46_decoder_interface.md R334). -/

namespace Sys2Proof.Machine

/-- The value of two fields side by side. -/
theorem toNat_append {m n : Nat} (x : BitVec m) (y : BitVec n) : (x ++ y).toNat = x.toNat * 2 ^ n + y.toNat := by
  rw [BitVec.toNat_append, Nat.shiftLeft_eq, Nat.mul_comm, Nat.two_pow_add_eq_or_of_lt y.isLt]

/-- SR as the sum of its fields (R38). -/
theorem statusWord_toNat (d : Decoder) (target : Byte) (model : BitVec 2) :
    (statusWord d target model).toNat =
      d.empty.toNat + 2 * d.ready.toNat + 2 ^ 8 * d.idx.toNat + 2 ^ 16 * target.toNat + 2 ^ 24 * model.toNat := by
  have h1 := d.idx.isLt
  have h2 := target.isLt
  have h3 := model.isLt
  simp only [statusWord, toNat_append, BitVec.toNat_ofBool, BitVec.toNat_ofNat]
  omega

/-- All that a WAIT can do (R334, R407). -/
theorem State.wait_cases (s : State) (t : WaitTarget) (m : WaitMode) :
    (s.readyOf t = true ∧ s.wait t m = (s.clearReady t).finish 1) ∨
    (s.readyOf t = false ∧ m = .timed ∧ s.env.timedOut = true ∧ s.wait t m = s.finish 0) ∨
    (s.readyOf t = false ∧ (m = .inf ∨ s.env.timedOut = false) ∧ s.wait t m = s.block ⟨t, m⟩) := by
  cases hr : s.readyOf t <;> cases m <;> cases ho : s.env.timedOut <;> simp [State.wait, hr, ho]

/-! ## clearReady -/

@[simp] theorem State.clearReady_byteInCrsf (s : State) (t : WaitTarget) : (s.clearReady t).byteInCrsf = s.byteInCrsf := by
  rcases t with _ | _ | _ | (_ | _ | _ | _) <;> rfl
@[simp] theorem State.clearReady_byteInSbus (s : State) (t : WaitTarget) : (s.clearReady t).byteInSbus = s.byteInSbus := by
  rcases t with _ | _ | _ | (_ | _ | _ | _) <;> rfl
@[simp] theorem State.clearReady_byteInIbus (s : State) (t : WaitTarget) : (s.clearReady t).byteInIbus = s.byteInIbus := by
  rcases t with _ | _ | _ | (_ | _ | _ | _) <;> rfl
@[simp] theorem State.clearReady_radioRx (s : State) (t : WaitTarget) : (s.clearReady t).radioRx = s.radioRx := by
  rcases t with _ | _ | _ | (_ | _ | _ | _) <;> rfl
@[simp] theorem State.clearReady_cmd (s : State) (t : WaitTarget) : (s.clearReady t).cmd = s.cmd := by
  rcases t with _ | _ | _ | (_ | _ | _ | _) <;> rfl
@[simp] theorem State.clearReady_turns (s : State) (t : WaitTarget) : (s.clearReady t).turns = s.turns := by
  rcases t with _ | _ | _ | (_ | _ | _ | _) <;> rfl
@[simp] theorem State.clearReady_env (s : State) (t : WaitTarget) : (s.clearReady t).env = s.env := by
  rcases t with _ | _ | _ | (_ | _ | _ | _) <;> rfl
@[simp] theorem State.clearReady_waiting (s : State) (t : WaitTarget) : (s.clearReady t).waiting = s.waiting := by
  rcases t with _ | _ | _ | (_ | _ | _ | _) <;> rfl
@[simp] theorem State.clearReady_reply (s : State) (t : WaitTarget) : (s.clearReady t).reply = s.reply := by
  rcases t with _ | _ | _ | (_ | _ | _ | _) <;> rfl
@[simp] theorem State.clearReady_radioTx (s : State) (t : WaitTarget) : (s.clearReady t).radioTx = s.radioTx := by
  rcases t with _ | _ | _ | (_ | _ | _ | _) <;> rfl
@[simp] theorem State.clearReady_freeCount (s : State) (t : WaitTarget) : (s.clearReady t).freeCount = s.freeCount := by
  rcases t with _ | _ | _ | (_ | _ | _ | _) <;> rfl

/-- A TAKE or WAIT of another unit or peer leaves a unit alone. -/
theorem State.clearReady_crsf_of_ne (s : State) {t : WaitTarget} (h : t ≠ .crsf) : (s.clearReady t).crsf = s.crsf := by
  rcases t with _ | _ | _ | (_ | _ | _ | _) <;> first | rfl | exact absurd rfl h
theorem State.clearReady_sbus_of_ne (s : State) {t : WaitTarget} (h : t ≠ .sbus) : (s.clearReady t).sbus = s.sbus := by
  rcases t with _ | _ | _ | (_ | _ | _ | _) <;> first | rfl | exact absurd rfl h
theorem State.clearReady_ibus_of_ne (s : State) {t : WaitTarget} (h : t ≠ .ibus) : (s.clearReady t).ibus = s.ibus := by
  rcases t with _ | _ | _ | (_ | _ | _ | _) <;> first | rfl | exact absurd rfl h
theorem State.clearReady_pt_of_ne (s : State) {t : WaitTarget} (h : ∀ p, t ≠ .peer p) : (s.clearReady t).pt = s.pt := by
  rcases t with _ | _ | _ | p <;> first | rfl | exact absurd rfl (h p)

/-- All that a TAKE or WAIT does to a unit: it clears READY or nothing. -/
theorem State.clearReady_crsf (s : State) (t : WaitTarget) :
    (s.clearReady t).crsf = s.crsf ∨ (s.clearReady t).crsf = { s.crsf with dec := { s.crsf.dec with ready := false } } := by
  rcases t with _ | _ | _ | (_ | _ | _ | _) <;> first | exact .inl rfl | exact .inr rfl
theorem State.clearReady_sbus (s : State) (t : WaitTarget) :
    (s.clearReady t).sbus = s.sbus ∨ (s.clearReady t).sbus = { s.sbus with dec := { s.sbus.dec with ready := false } } := by
  rcases t with _ | _ | _ | (_ | _ | _ | _) <;> first | exact .inl rfl | exact .inr rfl
theorem State.clearReady_ibus (s : State) (t : WaitTarget) :
    (s.clearReady t).ibus = s.ibus ∨ (s.clearReady t).ibus = { s.ibus with dec := { s.ibus.dec with ready := false } } := by
  rcases t with _ | _ | _ | (_ | _ | _ | _) <;> first | exact .inl rfl | exact .inr rfl
theorem State.clearReady_pt (s : State) (t : WaitTarget) :
    ∃ a b, (s.clearReady t).pt = { s.pt with readyPri := a, readySec := b } := by
  rcases t with _ | _ | _ | (_ | _ | _ | _) <;> exact ⟨_, _, rfl⟩
theorem State.clearReady_readyPri_of_ne (s : State) {t : WaitTarget} (h : t ≠ .peer .pri) :
    (s.clearReady t).pt.readyPri = s.pt.readyPri := by
  rcases t with _ | _ | _ | (_ | _ | _ | _) <;> first | rfl | exact absurd rfl h
theorem State.clearReady_readySec_of_ne (s : State) {t : WaitTarget} (h : t ≠ .peer .sec) :
    (s.clearReady t).pt.readySec = s.pt.readySec := by
  rcases t with _ | _ | _ | (_ | _ | _ | _) <;> first | rfl | exact absurd rfl h

end Sys2Proof.Machine
end

