-- ==== Sys2Proof/Laws/Decode.lean ====
section
/-! SUPPORT. The byte and field helpers of Decode.lean undo each other (spec/00_scope.md R11, spec/30_encoding.md R100 to R110). -/

namespace Sys2Proof

theorem opOfByte_opByte (o : Opcode) : opOfByte (opByte o) = some o := by cases o <;> decide

/-- A byte names at most the opcode it spells (R110). -/
theorem opByte_of_opOfByte {b : Byte} {o : Opcode} (h : opOfByte b = some o) : opByte o = b := by
  have := List.find?_some h
  simpa using this

theorem le16_byteOf (v : Half) : le16 (byteOf v 0) (byteOf v 1) = v := by
  apply BitVec.eq_of_toNat_eq
  have := v.isLt
  simp only [le16, Machine.toNat_append, byteOf, BitVec.extractLsb'_toNat, Nat.shiftRight_eq_div_pow]
  omega

theorem byteOf_le16 (lo hi : Byte) : byteOf (le16 lo hi) 0 = lo ∧ byteOf (le16 lo hi) 1 = hi := by
  have h1 := lo.isLt
  have h2 := hi.isLt
  refine ⟨BitVec.eq_of_toNat_eq ?_, BitVec.eq_of_toNat_eq ?_⟩ <;>
  · simp only [le16, Machine.toNat_append, byteOf, BitVec.extractLsb'_toNat, Nat.shiftRight_eq_div_pow]
    omega

theorem le32_toNat (b0 b1 b2 b3 : Byte) :
    (le32 b0 b1 b2 b3).toNat = b0.toNat + 2 ^ 8 * b1.toNat + 2 ^ 16 * b2.toNat + 2 ^ 24 * b3.toNat := by
  simp only [le32, Machine.toNat_append]
  omega

theorem le32_byteOf (w : Word) : le32 (byteOf w 0) (byteOf w 1) (byteOf w 2) (byteOf w 3) = w := by
  apply BitVec.eq_of_toNat_eq
  have := w.isLt
  rw [le32_toNat]
  simp only [byteOf, BitVec.extractLsb'_toNat, Nat.shiftRight_eq_div_pow]
  omega

theorem byteOf_le32 (b0 b1 b2 b3 : Byte) : le32Bytes (le32 b0 b1 b2 b3) = [b0, b1, b2, b3] := by
  have h0 := b0.isLt
  have h1 := b1.isLt
  have h2 := b2.isLt
  have h3 := b3.isLt
  simp only [le32Bytes, List.cons.injEq, and_true]
  refine ⟨BitVec.eq_of_toNat_eq ?_, BitVec.eq_of_toNat_eq ?_, BitVec.eq_of_toNat_eq ?_, BitVec.eq_of_toNat_eq ?_⟩ <;>
  · simp only [byteOf, BitVec.extractLsb'_toNat, Nat.shiftRight_eq_div_pow, le32_toNat]
    omega

theorem peerOfBits_peerBits (p : PeerId) : peerOfBits (peerBits p) = p := by cases p <;> decide
theorem peerBits_peerOfBits : ∀ b : BitVec 2, peerBits (peerOfBits b) = b := by decide
theorem waitModeOfByte_byte (t : WaitMode) : waitModeOfByte (waitModeByte t) = .ok t := by cases t <;> decide
theorem waitModeByte_of_ok {b : Byte} {t : WaitMode} (h : waitModeOfByte b = .ok t) : waitModeByte t = b := by
  unfold waitModeOfByte at h
  split at h
  · next hb => cases h; exact hb.symm
  · split at h
    · next hb => cases h; exact hb.symm
    · cases h

/-- The fields of the lane C[23:16] of a format R word (R107). -/
theorem setupLane_fields (a e : Bool) :
    (setupLane a e).extractLsb' 2 6 = 0 ∧ (setupLane a e).getLsbD 1 = a ∧ (setupLane a e).getLsbD 0 = e := by
  cases a <;> cases e <;> decide

/-- A format R lane with its must-be-zero bits clear is the lane of its two flags. -/
theorem setupLane_of_fields : ∀ b : Byte, b.extractLsb' 2 6 = 0 → setupLane (b.getLsbD 1) (b.getLsbD 0) = b := by decide

/-- The fields of the lane C[23:16] of a format S word (R108). -/
theorem sendLane_fields (p : PeerId) (z : Bool) :
    (sendLane p z).extractLsb' 0 5 = 0 ∧ peerOfBits ((sendLane p z).extractLsb' 6 2) = p ∧ (sendLane p z).getLsbD 5 = z := by
  cases p <;> cases z <;> decide

theorem sendLane_of_fields :
    ∀ b : Byte, b.extractLsb' 0 5 = 0 → sendLane (peerOfBits (b.extractLsb' 6 2)) (b.getLsbD 5) = b := by decide

/-- The lane C[15:8] of a format P word (R104). -/
theorem peerLane_fields (p : PeerId) :
    (0#6 ++ peerBits p : Byte).extractLsb' 2 6 = 0 ∧ peerOfBits ((0#6 ++ peerBits p : Byte).extractLsb' 0 2) = p := by
  cases p <;> decide

theorem peerLane_of_fields :
    ∀ b : Byte, b.extractLsb' 2 6 = 0 → (0#6 ++ peerBits (peerOfBits (b.extractLsb' 0 2)) : Byte) = b := by decide

/-- Decoding a word whose opcode is assigned and whose data string is whole (R100). -/
theorem decode_word {o : Opcode} {c0 c1 c2 c3 : Byte} (h : opOfByte c3 = some o) (data rest : List Byte)
    (hn : dataLen o ⟨c3, c2, c1, c0⟩ = data.length) :
    decode (c0 :: c1 :: c2 :: c3 :: (data ++ rest)) =
      match decodeOperands o ⟨c3, c2, c1, c0⟩ data with
      | .ok i => .instr i rest
      | .error e => .illegal e rest := by
  have hl : ¬ (data ++ rest).length < data.length := by simp
  cases hd : decodeOperands o ⟨c3, c2, c1, c0⟩ data <;>
    simp only [decode, h, hn, hl, hd, if_false, List.take_left', List.drop_left']

end Sys2Proof
end

