-- ==== Sys2Proof/Laws/Memory.lean ====
section
/-! SUPPORT. What the buffer operations of Machine/Ops.lean do (spec/20_memory.md R80, R83): read after write, and the canonical
form every write keeps. -/

namespace Sys2Proof.Machine

@[simp] theorem Memory.read_nil (i : Nat) : Memory.read [] i = Memory.unlisted := rfl

theorem Memory.read_of_wfFrom_lt {m : Memory} {lo i : Nat} (h : Memory.wfFrom lo m = true) (hi : i < lo) :
    m.read i = 0 := by
  induction m generalizing lo with
  | nil => rfl
  | cons c m ih =>
    obtain ⟨a, b⟩ := c
    simp only [Memory.wfFrom, Bool.and_eq_true, decide_eq_true_eq] at h
    have : a ≠ i := by omega
    simp only [Memory.read, this, if_false]
    exact ih h.2 (by omega)

theorem Memory.wfFrom_mono {m : Memory} {lo lo' : Nat} (h : Memory.wfFrom lo m = true) (hl : lo' ≤ lo) :
    Memory.wfFrom lo' m = true := by
  cases m with
  | nil => rfl
  | cons c m =>
    obtain ⟨a, b⟩ := c
    simp only [Memory.wfFrom, Bool.and_eq_true, decide_eq_true_eq] at h ⊢
    exact ⟨⟨by omega, h.1.2⟩, h.2⟩

/-- A byte written reads back. -/
theorem Memory.read_write_same {m : Memory} {lo : Nat} (h : Memory.wfFrom lo m = true) (i : Nat) (v : Byte) :
    (m.write i v).read i = v := by
  induction m generalizing lo with
  | nil => by_cases hv : v = Memory.unlisted <;> simp [Memory.write, Memory.read, hv]
  | cons c m ih =>
    obtain ⟨a, b⟩ := c
    simp only [Memory.wfFrom, Bool.and_eq_true, decide_eq_true_eq] at h
    obtain hlt | rfl | hgt := Nat.lt_trichotomy i a
    · by_cases hv : v = Memory.unlisted
      · have : a ≠ i := by omega
        simp only [Memory.write, hlt, if_true, hv, Memory.read, this, if_false]
        exact Memory.read_of_wfFrom_lt h.2 (by omega)
      · simp [Memory.write, hlt, hv, Memory.read]
    · by_cases hv : v = Memory.unlisted
      · simp only [Memory.write, Nat.lt_irrefl, if_false, if_true, hv]
        exact Memory.read_of_wfFrom_lt h.2 (by omega)
      · simp [Memory.write, hv, Memory.read]
    · have h1 : ¬ i < a := by omega
      have h2 : i ≠ a := by omega
      have h3 : a ≠ i := by omega
      simp only [Memory.write, h1, h2, if_false, Memory.read, h3]
      exact ih h.2

/-- A write leaves every other byte alone. -/
theorem Memory.read_write_other (m : Memory) {i j : Nat} (v : Byte) (hij : j ≠ i) :
    (m.write i v).read j = m.read j := by
  have hij' : i ≠ j := fun e => hij e.symm
  induction m with
  | nil => by_cases hv : v = Memory.unlisted <;> simp [Memory.write, Memory.read, hv, hij']
  | cons c m ih =>
    obtain ⟨a, b⟩ := c
    obtain hlt | rfl | hgt := Nat.lt_trichotomy i a
    · by_cases hv : v = Memory.unlisted <;> simp [Memory.write, hlt, hv, Memory.read, hij']
    · by_cases hv : v = Memory.unlisted <;> simp [Memory.write, hv, Memory.read, hij']
    · have h1 : ¬ i < a := by omega
      have h2 : i ≠ a := by omega
      simp only [Memory.write, h1, h2, if_false, Memory.read]
      rw [ih]

theorem Memory.write_wfFrom {m : Memory} {lo i : Nat} (h : Memory.wfFrom lo m = true) (hi : lo ≤ i) (v : Byte) :
    Memory.wfFrom lo (m.write i v) = true := by
  induction m generalizing lo with
  | nil =>
    by_cases hv : v = Memory.unlisted
    · simp [Memory.write, hv, Memory.wfFrom]
    · simp [Memory.write, hv, Memory.wfFrom, hi]
  | cons c m ih =>
    obtain ⟨a, b⟩ := c
    simp only [Memory.wfFrom, Bool.and_eq_true, decide_eq_true_eq] at h
    obtain hlt | rfl | hgt := Nat.lt_trichotomy i a
    · by_cases hv : v = Memory.unlisted
      · simp only [Memory.write, hlt, if_true, hv, Memory.wfFrom, Bool.and_eq_true, decide_eq_true_eq]
        exact ⟨⟨by omega, h.1.2⟩, h.2⟩
      · simp only [Memory.write, hlt, if_true, hv, if_false, Memory.wfFrom, Bool.and_eq_true, decide_eq_true_eq]
        exact ⟨⟨hi, hv⟩, ⟨by omega, h.1.2⟩, h.2⟩
    · by_cases hv : v = Memory.unlisted
      · simp only [Memory.write, Nat.lt_irrefl, if_false, if_true, hv]
        exact Memory.wfFrom_mono h.2 (by omega)
      · simp only [Memory.write, Nat.lt_irrefl, if_false, if_true, hv, Memory.wfFrom, Bool.and_eq_true, decide_eq_true_eq]
        exact ⟨⟨hi, hv⟩, h.2⟩
    · have h1 : ¬ i < a := by omega
      have h2 : i ≠ a := by omega
      simp only [Memory.write, h1, h2, if_false, Memory.wfFrom, Bool.and_eq_true, decide_eq_true_eq]
      exact ⟨h.1, ih h.2 (by omega)⟩

/-- A write keeps the canonical form. -/
theorem Memory.write_wf {m : Memory} (h : m.wf = true) (i : Nat) (v : Byte) : (m.write i v).wf = true :=
  Memory.write_wfFrom h (Nat.zero_le i) v

/-- A write inside a buffer keeps every listed byte inside it. -/
theorem Memory.write_below {m : Memory} {n : Nat} (h : m.below n = true) {i : Nat} (hi : i < n) (v : Byte) :
    (m.write i v).below n = true := by
  induction m with
  | nil => by_cases hv : v = Memory.unlisted <;> simp [Memory.write, Memory.below, hv, hi]
  | cons c m ih =>
    obtain ⟨a, b⟩ := c
    simp only [Memory.below, List.all_cons, Bool.and_eq_true, decide_eq_true_eq] at h ih
    obtain hlt | rfl | hgt := Nat.lt_trichotomy i a
    · by_cases hv : v = Memory.unlisted <;>
        simp only [Memory.write, hlt, hv, if_true, if_false, Memory.below, List.all_cons, Bool.and_eq_true,
          decide_eq_true_eq, h, hi, true_and]
    · by_cases hv : v = Memory.unlisted <;>
        simp only [Memory.write, Nat.lt_irrefl, hv, if_true, if_false, Memory.below, List.all_cons, Bool.and_eq_true,
          decide_eq_true_eq, h, true_and]
    · have h1 : ¬ i < a := by omega
      have h2 : i ≠ a := by omega
      simp only [Memory.write, h1, h2, if_false, Memory.below, List.all_cons, Bool.and_eq_true, decide_eq_true_eq]
      exact ⟨h.1, ih h.2⟩

/-! ## Byte strings -/

@[simp] theorem Memory.length_bytes (m : Memory) (a n : Nat) : (m.bytes a n).length = n := by simp [Memory.bytes]

/-- Byte k of buf[a .. a+n-1]. -/
theorem Memory.getElem_bytes (m : Memory) (a n k : Nat) (h : k < (m.bytes a n).length) :
    (m.bytes a n)[k] = m.read (a + k) := by simp [Memory.bytes]

theorem Memory.bytes_zero (m : Memory) (a : Nat) : m.bytes a 0 = [] := rfl

/-- A string of bytes is its first byte and the rest. -/
theorem Memory.bytes_succ (m : Memory) (a n : Nat) : m.bytes a (n + 1) = m.read a :: m.bytes (a + 1) n := by
  refine List.ext_getElem (by simp) fun k h _ => ?_
  cases k with
  | zero => simp [Memory.getElem_bytes]
  | succ k => simp only [Memory.getElem_bytes, List.getElem_cons_succ]; congr 1; omega

/-- A string of bytes cut in two. -/
theorem Memory.bytes_add (m : Memory) (a n k : Nat) : m.bytes a (n + k) = m.bytes a n ++ m.bytes (a + n) k := by
  induction n generalizing a with
  | zero => simp [Memory.bytes_zero]
  | succ n ih =>
    rw [Nat.add_right_comm, Memory.bytes_succ, ih, Memory.bytes_succ, List.cons_append, show a + 1 + n = a + (n + 1) by omega]

/-- Two buffers that agree on a range give the same string. -/
theorem Memory.bytes_congr {m m' : Memory} {a n : Nat} (h : ∀ k < n, m.read (a + k) = m'.read (a + k)) :
    m.bytes a n = m'.bytes a n := by
  refine List.map_congr_left fun k hk => ?_
  exact h k (List.mem_range.mp hk)

theorem Memory.writeBytes_wf {m : Memory} (h : m.wf = true) (bs : List Byte) (i : Nat) :
    (m.writeBytes i bs).wf = true := by
  induction bs generalizing m i with
  | nil => exact h
  | cons b bs ih => exact ih (Memory.write_wf h i b) (i + 1)

theorem Memory.writeBytes_below {m : Memory} {n : Nat} (h : m.below n = true) (bs : List Byte) {i : Nat}
    (hi : i + bs.length ≤ n) : (m.writeBytes i bs).below n = true := by
  induction bs generalizing m i with
  | nil => exact h
  | cons b bs ih =>
    simp only [List.length_cons] at hi
    exact ih (Memory.write_below h (by omega) b) (by omega)

/-- Bytes outside a string written keep their value. -/
theorem Memory.read_writeBytes_outside (m : Memory) (bs : List Byte) {i j : Nat} (h : j < i ∨ i + bs.length ≤ j) :
    (m.writeBytes i bs).read j = m.read j := by
  induction bs generalizing m i with
  | nil => rfl
  | cons b bs ih =>
    simp only [List.length_cons] at h
    rw [Memory.writeBytes, ih (m.write i b) (by omega), Memory.read_write_other m b (by omega)]

/-- A string written reads back. -/
theorem Memory.read_writeBytes_inside {m : Memory} (hw : m.wf = true) (bs : List Byte) (i k : Nat) (h : k < bs.length) :
    (m.writeBytes i bs).read (i + k) = bs[k] := by
  induction bs generalizing m i k with
  | nil => simp at h
  | cons b bs ih =>
    cases k with
    | zero =>
      rw [Memory.writeBytes, Memory.read_writeBytes_outside _ _ (by omega)]
      exact Memory.read_write_same hw i b
    | succ k =>
      have := ih (Memory.write_wf hw i b) (i + 1) k (by simpa using h)
      rw [show i + (k + 1) = i + 1 + k by omega]
      simpa [Memory.writeBytes] using this

end Sys2Proof.Machine
end

