-- ==== Sys2Proof/Laws/Decoder.lean ====
section
/-! SUPPORT. What the steps the decoder units share can do (spec/41_crsf.md R172, spec/20_memory.md R83): one lemma per operation
of Machine/Ops.lean, cited instead of unfolding it. -/

namespace Sys2Proof.Machine

/-- The resync timeout fires exactly on a frame in progress past its budget (R172). -/
theorem Decoder.expired_iff (d : Decoder) (now budget : Word) :
    d.expired now budget = true ↔ d.idx ≠ 0 ∧ budget.toNat < (now - d.start).toNat := by
  simp [Decoder.expired, BitVec.lt_def]

theorem Decoder.resync_of_expired {d : Decoder} {now budget : Word} (h : d.idx ≠ 0)
    (ht : budget.toNat < (now - d.start).toNat) :
    d.resync now budget = { d with idx := 0, dropped := d.dropped + 1 } :=
  if_pos ((Decoder.expired_iff d now budget).mpr ⟨h, ht⟩)

theorem Decoder.resync_of_idx_zero {d : Decoder} (now budget : Word) (h : d.idx = 0) : d.resync now budget = d :=
  if_neg fun e => ((Decoder.expired_iff d now budget).mp e).1 h

theorem Decoder.resync_in_time {d : Decoder} {now budget : Word} (ht : (now - d.start).toNat ≤ budget.toNat) :
    d.resync now budget = d :=
  if_neg fun e => absurd ((Decoder.expired_iff d now budget).mp e).2 (by omega)

/-- All that the timeout check can do. -/
theorem Decoder.resync_cases (d : Decoder) (now budget : Word) :
    (d.idx ≠ 0 ∧ budget.toNat < (now - d.start).toNat ∧
      d.resync now budget = { d with idx := 0, dropped := d.dropped + 1 }) ∨
    (¬ (d.idx ≠ 0 ∧ budget.toNat < (now - d.start).toNat) ∧ d.resync now budget = d) := by
  by_cases h : d.expired now budget = true
  · obtain ⟨h1, h2⟩ := (Decoder.expired_iff d now budget).mp h
    exact .inl ⟨h1, h2, if_pos h⟩
  · exact .inr ⟨fun e => h ((Decoder.expired_iff d now budget).mpr e), if_neg h⟩

@[simp] theorem Decoder.resync_work (d : Decoder) (t b : Word) : (d.resync t b).work = d.work := by
  unfold Decoder.resync; split <;> rfl
@[simp] theorem Decoder.resync_stable (d : Decoder) (t b : Word) : (d.resync t b).stable = d.stable := by
  unfold Decoder.resync; split <;> rfl
@[simp] theorem Decoder.resync_slen (d : Decoder) (t b : Word) : (d.resync t b).slen = d.slen := by
  unfold Decoder.resync; split <;> rfl
@[simp] theorem Decoder.resync_start (d : Decoder) (t b : Word) : (d.resync t b).start = d.start := by
  unfold Decoder.resync; split <;> rfl
@[simp] theorem Decoder.resync_empty (d : Decoder) (t b : Word) : (d.resync t b).empty = d.empty := by
  unfold Decoder.resync; split <;> rfl
@[simp] theorem Decoder.resync_ready (d : Decoder) (t b : Word) : (d.resync t b).ready = d.ready := by
  unfold Decoder.resync; split <;> rfl
@[simp] theorem Decoder.resync_rxcount (d : Decoder) (t b : Word) : (d.resync t b).rxcount = d.rxcount := by
  unfold Decoder.resync; split <;> rfl

/-- What storing a byte does where WORK has the index (R175, R204, R234). -/
theorem Decoder.store_eq {d : Decoder} {size : Nat} (h : d.idx.toNat < size) (b : Byte) :
    d.store size b = .ok { d with work := d.work.write d.idx.toNat b, idx := d.idx + 1 } := if_pos h

/-- All that storing a byte can do. -/
theorem Decoder.store_ok {d d' : Decoder} {size : Nat} {b : Byte} (h : d.store size b = .ok d') :
    d.idx.toNat < size ∧ d' = { d with work := d.work.write d.idx.toNat b, idx := d.idx + 1 } := by
  unfold Decoder.store at h
  split at h
  · exact ⟨‹_›, (Except.ok.inj h).symm⟩
  · cases h

/-- What publishing a frame does where it fits the buffers (R83). -/
theorem Decoder.publish_eq {d : Decoder} {size : Nat} {n : Byte} (h : n.toNat ≤ size) :
    d.publish size n = .ok { d with
      stable := d.stable.writeBytes 0 (d.work.bytes 0 n.toNat), slen := n, empty := false, ready := true,
      rxcount := d.rxcount + 1 } := if_pos h

/-- All that publishing a frame can do. -/
theorem Decoder.publish_ok {d d' : Decoder} {size : Nat} {n : Byte} (h : d.publish size n = .ok d') :
    n.toNat ≤ size ∧ d' = { d with
      stable := d.stable.writeBytes 0 (d.work.bytes 0 n.toNat), slen := n, empty := false, ready := true,
      rxcount := d.rxcount + 1 } := by
  unfold Decoder.publish at h
  split at h
  · exact ⟨‹_›, (Except.ok.inj h).symm⟩
  · cases h

/-- The bytes STABLE holds after a publish (R83): the frame, and beyond it what it held before. -/
theorem Memory.read_publish {stable work : Memory} (hw : stable.wf = true) (n i : Nat) :
    (stable.writeBytes 0 (work.bytes 0 n)).read i = if i < n then work.read i else stable.read i := by
  split
  · next h =>
    have := Memory.read_writeBytes_inside hw (work.bytes 0 n) 0 i (by simpa using h)
    simpa [Memory.getElem_bytes] using this
  · exact Memory.read_writeBytes_outside _ _ (.inr (by simp; omega))

/-- Reading a buffer after one byte is written. -/
theorem Memory.read_write {m : Memory} (hw : m.wf = true) (i j : Nat) (v : Byte) :
    (m.write i v).read j = if j = i then v else m.read j := by
  split
  · next h => subst h; exact Memory.read_write_same hw j v
  · next h => exact Memory.read_write_other m v h

end Sys2Proof.Machine
end

