-- ==== Sys2Proof/Laws/Peer.lean ====
section
/-! SUPPORT. All that the transceiver's operations can do (spec/45_peer_transceiver.md R285 to R304), one lemma per operation. -/

namespace Sys2Proof.Machine

/-- All that binding can do (R291). -/
theorem Transceiver.bind_cases (t : Transceiver) (src : Addr) :
    (t.pri.reg = true ∧ t.pri.aset = false ∧ src ≠ zeroAddr ∧ src ≠ t.sec.addr ∧
      t.bind src = { t with pri := { t.pri with addr := src, aset := true } }) ∨
    (¬ (t.pri.reg = true ∧ t.pri.aset = false ∧ src ≠ zeroAddr ∧ src ≠ t.sec.addr) ∧ t.bind src = t) := by
  unfold Transceiver.bind
  split
  · next h => exact .inl ⟨h.1, by simpa using h.2.1, h.2.2.1, h.2.2.2, rfl⟩
  · next h => exact .inr ⟨fun e => h ⟨e.1, by simpa using e.2.1, e.2.2.1, e.2.2.2⟩, rfl⟩

/-- A slot hears its own registered address (R292). -/
theorem Slot.hears_iff (k : Slot) (src : Addr) : k.hears src = true ↔ k.reg = true ∧ k.aset = true ∧ k.addr = src := by
  simp [Slot.hears, and_assoc]

/-- What the copy of a frame does where the capacity fits the buffer (R293). -/
theorem Slot.receive_eq {k : Slot} (h : k.cap.toNat ≤ ptCapMax) (data : List Byte) :
    k.receive data = .ok { k with
      buf := k.buf.writeBytes 0 (data.take (min data.length k.cap.toNat))
      len := BitVec.ofNat 16 (min data.length k.cap.toNat) } := by
  have : min data.length k.cap.toNat ≤ ptCapMax := by omega
  simp only [Slot.receive, this, if_true]

/-- All that the copy of a frame can do. -/
theorem Slot.receive_ok {k k' : Slot} {data : List Byte} (h : k.receive data = .ok k') :
    min data.length k.cap.toNat ≤ ptCapMax ∧ k' = { k with
      buf := k.buf.writeBytes 0 (data.take (min data.length k.cap.toNat))
      len := BitVec.ofNat 16 (min data.length k.cap.toNat) } := by
  unfold Slot.receive at h
  simp only at h
  split at h
  · exact ⟨‹_›, (Except.ok.inj h).symm⟩
  · cases h

/-- The bytes of a slot's buffer after a copy (R293). -/
theorem Slot.read_received {k : Slot} (hw : k.buf.wf = true) (data : List Byte) (i : Nat) :
    (k.buf.writeBytes 0 (data.take (min data.length k.cap.toNat))).read i =
      if h : i < data.length ∧ i < k.cap.toNat then data[i]'h.1 else k.buf.read i := by
  split
  · next h =>
    have hl : i < (data.take (min data.length k.cap.toNat)).length := by simp; omega
    have := Memory.read_writeBytes_inside hw _ 0 i hl
    rw [Nat.zero_add] at this
    rw [this]
    simp
  · next h => exact Memory.read_writeBytes_outside _ _ (.inr (by simp; omega))

/-- All that PT.RX can do (R290 to R295). -/
theorem ptReceive_cases {t t' : Transceiver} {src : Addr} {data : List Byte} {tick r : Word}
    (h : ptReceive t src data tick = .ok (t', r)) :
    (src = bcastAddr ∧ t' = t ∧ r = 0) ∨
    (src ≠ bcastAddr ∧ (t.bind src).pri.hears src = true ∧ r = 1 ∧ ∃ k, (t.bind src).pri.receive data = .ok k ∧
      t' = { t.bind src with
        pri := k, rxcount := t.rxcount + 1, tickDelta := tick - t.lastTick, lastTick := tick, readyPri := true }) ∨
    (src ≠ bcastAddr ∧ (t.bind src).pri.hears src = false ∧ (t.bind src).sec.hears src = true ∧ r = 2 ∧
      ∃ k, (t.bind src).sec.receive data = .ok k ∧ t' = { t.bind src with sec := k, readySec := true }) ∨
    (src ≠ bcastAddr ∧ (t.bind src).pri.hears src = false ∧ (t.bind src).sec.hears src = false ∧ t' = t.bind src ∧
      r = 0) := by
  have hrx : (t.bind src).rxcount = t.rxcount := by unfold Transceiver.bind; split <;> rfl
  have hlt : (t.bind src).lastTick = t.lastTick := by unfold Transceiver.bind; split <;> rfl
  unfold ptReceive at h
  split at h
  · next hb => cases h; exact .inl ⟨hb, rfl, rfl⟩
  · next hb =>
    simp only at h
    split at h
    · next hp =>
      simp only [Transceiver.deliverPri] at h
      cases hk : (t.bind src).pri.receive data with
      | error e => simp [hk, Except.map] at h
      | ok k =>
        simp only [hk, Except.map] at h
        cases h
        exact .inr (.inl ⟨hb, hp, rfl, k, rfl, by rw [hrx, hlt]⟩)
    · next hp =>
      have hp : (t.bind src).pri.hears src = false := by simpa using hp
      split at h
      · next hs =>
        simp only [Transceiver.deliverSec] at h
        cases hk : (t.bind src).sec.receive data with
        | error e => simp [hk, Except.map] at h
        | ok k =>
          simp only [hk, Except.map] at h
          cases h
          exact .inr (.inr (.inl ⟨hb, hp, hs, rfl, k, rfl, rfl⟩))
      · next hs =>
        cases h
        exact .inr (.inr (.inr ⟨hb, hp, by simpa using hs, rfl, rfl⟩))

/-- A PT.RX that answers a next state ended with its result. -/
theorem State.endRx_next {s s' : State} {x : Except Fault (Transceiver × Word)} (h : s.endRx x = .next s') :
    ∃ t r, x = .ok (t, r) ∧ s' = { s with pt := t, reply := some ⟨.ok, r, []⟩ } := by
  unfold State.endRx at h
  split at h
  · cases h
  · next t r => cases h; exact ⟨t, r, rfl, rfl⟩

/-- All that PT.SETUP_PRIMARY can do (R283, R285). -/
theorem ptSetupPrimary_cases (enc : Bool) (ch : Byte) (cap : Half) (s : State) :
    (256 < cap.toNat ∧ ptSetupPrimary enc ch cap s = s.failWith .arg) ∨
    (cap.toNat ≤ 256 ∧ ptSetupPrimary enc ch cap s =
      State.finish { s with pt := { s.pt with pri := s.pt.pri.setup enc ch cap } } 0) := by
  by_cases h : cap.toNat ≤ 256
  · exact .inr ⟨h, by simp [ptSetupPrimary, capOk, ptCapMax, h]⟩
  · exact .inl ⟨by omega, by simp [ptSetupPrimary, capOk, ptCapMax, h]⟩

/-- All that PT.SET_PRIMARY_ADDR can do (R286). -/
theorem ptSetPrimaryAddr_cases (a : Addr) (s : State) :
    (s.pt.pri.aset = true ∧ ptSetPrimaryAddr a s = s.failWith .fail) ∨
    (s.pt.pri.aset = false ∧ (a = bcastAddr ∨ a = zeroAddr ∨ (s.pt.sec.aset = true ∧ a = s.pt.sec.addr)) ∧
      ptSetPrimaryAddr a s = s.failWith .arg) ∨
    (s.pt.pri.aset = false ∧ a ≠ bcastAddr ∧ a ≠ zeroAddr ∧ ¬ (s.pt.sec.aset = true ∧ a = s.pt.sec.addr) ∧
      ptSetPrimaryAddr a s =
        State.finish { s with pt := { s.pt with pri := { s.pt.pri with addr := a, aset := true } } } 0) := by
  unfold ptSetPrimaryAddr
  split
  · next h => exact .inl ⟨h, rfl⟩
  · next h =>
    have h : s.pt.pri.aset = false := by simpa using h
    split
    · next hf =>
      have hf : a = bcastAddr ∨ a = zeroAddr := by simpa [forbiddenAddr] using hf
      exact .inr (.inl ⟨h, by tauto, rfl⟩)
    · next hf =>
      have hf : ¬ (a = bcastAddr ∨ a = zeroAddr) := by simpa [forbiddenAddr] using hf
      split
      · next hs => exact .inr (.inl ⟨h, by tauto, rfl⟩)
      · next hs => exact .inr (.inr ⟨h, by tauto, by tauto, hs, rfl⟩)

/-- All that PT.ADD_SECONDARY can do (R283, R287). -/
theorem ptAddSecondary_cases (enc : Bool) (ch : Byte) (cap : Half) (o : Option Addr) (s : State) :
    ((256 < cap.toNat ∨ secondaryAddrRefused s.pt o = true) ∧ ptAddSecondary enc ch cap o s = s.failWith .arg) ∨
    (cap.toNat ≤ 256 ∧ secondaryAddrRefused s.pt o = false ∧ ptAddSecondary enc ch cap o s =
      State.finish { s with pt := { s.pt with sec := (s.pt.sec.setup enc ch cap).setAddr o } } 0) := by
  by_cases h : cap.toNat ≤ 256
  · by_cases hr : secondaryAddrRefused s.pt o = true
    · exact .inl ⟨.inr hr, by simp [ptAddSecondary, capOk, ptCapMax, h, hr]⟩
    · exact .inr ⟨h, by simpa using hr, by simp [ptAddSecondary, capOk, ptCapMax, h, hr]⟩
  · exact .inl ⟨.inl (by omega), by simp [ptAddSecondary, capOk, ptCapMax, h]⟩

/-- The address PT.ADD_SECONDARY refuses (R287). -/
theorem secondaryAddrRefused_some (t : Transceiver) (a : Addr) :
    secondaryAddrRefused t (some a) = true ↔
      a = bcastAddr ∨ a = zeroAddr ∨ (t.pri.aset = true ∧ a = t.pri.addr) := by
  simp [secondaryAddrRefused, forbiddenAddr, or_assoc]

/-- All that PT.SEND can do (R296). -/
theorem ptSend_cases (p : PeerId) (z : Bool) (data : List Byte) (s : State) :
    (ptSend p z data s = s.failWith .arg) ∨ (ptSend p z data s = s.failWith .unbound) ∨
    (s.env.radioOk = true ∧ ptSend p z data s = (s.emit (sendDest s.pt p) data).finish 0) ∨
    (s.env.radioOk = false ∧ ptSend p z data s = (s.emit (sendDest s.pt p) data).failWith .radio) := by
  unfold ptSend
  split_ifs with h1 h2 h3 h4 h5
  · exact .inl rfl
  · exact .inl rfl
  · exact .inl rfl
  · exact .inr (.inl rfl)
  · exact .inr (.inr (.inl ⟨h5, rfl⟩))
  · exact .inr (.inr (.inr ⟨by simpa using h5, rfl⟩))

/-- All that one send step of PT.BCAST_ID can do (R298). -/
theorem ptBcastIdSend_cases (s : State) :
    (s.env.radioOk = false ∧ ptBcastIdSend s =
      State.failWith { s.emit bcastAddr (Config.bindPacket Config.myChannel Config.myAddr) with
        pt := { s.pt with bidActive := false, bidLeft := 0 } } .radio) ∨
    (s.env.radioOk = true ∧ s.pt.bidLeft = 1 ∧ ptBcastIdSend s =
      State.finish { s.emit bcastAddr (Config.bindPacket Config.myChannel Config.myAddr) with
        pt := { s.pt with bidActive := false, bidLeft := 0 } } 0) ∨
    (s.env.radioOk = true ∧ s.pt.bidLeft ≠ 1 ∧ ptBcastIdSend s =
      State.proceed { s.emit bcastAddr (Config.bindPacket Config.myChannel Config.myAddr) with
        pt := { s.pt with bidLeft := s.pt.bidLeft - 1 } }) := by
  have he : s.pt.bidLeft - 1 = 0 ↔ s.pt.bidLeft = 1 := by
    generalize s.pt.bidLeft = x
    constructor <;> intro h <;> bv_omega
  unfold ptBcastIdSend
  split_ifs with h1 h2
  · exact .inl ⟨by simpa using h1, rfl⟩
  · exact .inr (.inl ⟨by simpa using h1, he.mp h2, rfl⟩)
  · exact .inr (.inr ⟨by simpa using h1, fun e => h2 (he.mpr e), rfl⟩)

/-- A readout command on a slot without a buffer fails, on another it does what it does (R282). -/
theorem State.onReceiver_cases (s : State) (p : PeerId) (t : State) :
    (receives p = true ∧ s.onReceiver p t = t) ∨ (receives p = false ∧ s.onReceiver p t = s.failWith .arg) := by
  cases h : receives p <;> simp [State.onReceiver, h]

/-- All that PT.READBUF can do on an accepted slot (R302). -/
theorem ptReadByte_cases (k : Slot) (x : Byte) (s : State) :
    (k.cap.toNat ≤ x.toNat ∧ ptReadByte k x s = s.failWith .arg) ∨
    (x.toNat < k.cap.toNat ∧ ptReadByte k x s = s.finish ((k.buf.read x.toNat).setWidth 32)) := by
  by_cases h : k.cap.toNat ≤ x.toNat
  · exact .inl ⟨h, if_pos h⟩
  · exact .inr ⟨by omega, if_neg h⟩

end Sys2Proof.Machine
end

