-- ==== Sys2Proof/Laws/Units.lean ====
section
/-! SUPPORT. All that the FEED and UNPACK of each decoder unit can do (spec/41_crsf.md R171, R180; spec/42_sbus.md R201, R210;
spec/43_ibus.md R231, R240), one inversion lemma per operation. -/

namespace Sys2Proof.Machine

/-- All that storing a byte in WORK and completing a CRSF frame can do (R175, R176). -/
theorem crsfPayload_cases {u u' : CrsfUnit} {b : Byte} {r : Bool} (h : crsfPayload u b = .ok (u', r)) :
    u.dec.idx.toNat < crsfBuf ∧
    ((u.dec.idx + 1 ≠ u.target ∧ r = false ∧
        u' = { u with dec := { u.dec with work := u.dec.work.write u.dec.idx.toNat b, idx := u.dec.idx + 1 } }) ∨
     (u.dec.idx + 1 = u.target ∧ u.target.toNat ≤ crsfBuf ∧ r = true ∧
        u' = { u with dec := { u.dec with
          work := u.dec.work.write u.dec.idx.toNat b
          stable := u.dec.stable.writeBytes 0 ((u.dec.work.write u.dec.idx.toNat b).bytes 0 u.target.toNat)
          slen := u.target, empty := false, ready := true, rxcount := u.dec.rxcount + 1, idx := 0 } })) := by
  unfold crsfPayload at h
  split at h
  · cases h
  · next d hd =>
    obtain ⟨hi, rfl⟩ := Decoder.store_ok hd
    refine ⟨hi, ?_⟩
    split at h
    · next ht =>
      split at h
      · cases h
      · next d' hd' =>
        obtain ⟨hn, rfl⟩ := Decoder.publish_ok hd'
        cases h
        exact .inr ⟨ht, hn, rfl, by dsimp only⟩
    · next ht =>
      cases h
      exact .inl ⟨ht, rfl, rfl⟩

/-- All that CRSF.FEED can do, after the timeout check (R171 to R176). -/
theorem crsfFeed_cases {u u' : CrsfUnit} {b : Byte} {now : Word} {r : Bool} (h : crsfFeed u b now = .ok (u', r)) :
    let d := u.dec.resync now crsfBudgetUs
    (d.idx = 0 ∧ (b = crsfSyncA ∨ b = crsfSyncB) ∧ r = false ∧ u' = { u with dec := d.accept b now }) ∨
    (d.idx = 0 ∧ ¬ (b = crsfSyncA ∨ b = crsfSyncB) ∧ r = false ∧ u' = { u with dec := d.reject }) ∨
    (d.idx = 1 ∧ (b < crsfLenMin ∨ crsfLenMax < b) ∧ r = false ∧ u' = { u with dec := { d with idx := 0 } }) ∨
    (d.idx = 1 ∧ ¬ (b < crsfLenMin ∨ crsfLenMax < b) ∧ r = false ∧
      u' = { u with target := b + 2, dec := { d with work := d.work.write 1 b, idx := 2 } }) ∨
    (d.idx ≠ 0 ∧ d.idx ≠ 1 ∧ crsfPayload { u with dec := d } b = .ok (u', r)) := by
  simp only [crsfFeed] at h
  split at h
  · next h0 =>
    split at h
    · next hs => cases h; exact .inl ⟨h0, hs, rfl, rfl⟩
    · next hs => cases h; exact .inr (.inl ⟨h0, hs, rfl, rfl⟩)
  · next h0 =>
    split at h
    · next h1 =>
      unfold crsfLength at h
      split at h
      · next hl => cases h; exact .inr (.inr (.inl ⟨h1, hl, rfl, rfl⟩))
      · next hl => cases h; exact .inr (.inr (.inr (.inl ⟨h1, hl, rfl, rfl⟩)))
    · next h1 => exact .inr (.inr (.inr (.inr ⟨h0, h1, h⟩)))

/-- All that CRSF.UNPACK can do (R180, R184). -/
theorem crsfUnpack_cases {u u' : CrsfUnit} {r : Bool} (h : crsfUnpack u = .ok (u', r)) :
    (u.dec.empty = true ∧ r = false ∧ u' = u) ∨
    (u.dec.empty = false ∧ r = false ∧ u' = { u with dec := { u.dec with empty := true } }) ∨
    (u.dec.empty = false ∧ r = true ∧ u.dec.slen.toNat = crsfRcLen + 2 ∧ crsfFrameOk u.dec.stable u.dec.slen.toNat = true ∧
      u.dec.stable.read 2 = crsfTypeRc ∧
      u' = { u with ch := crsfChannels u.dec.stable, dec := { u.dec with empty := true } }) := by
  unfold crsfUnpack at h
  split at h
  · next he => cases h; exact .inl ⟨he, rfl, rfl⟩
  · next he =>
    have he : u.dec.empty = false := by simpa using he
    split at h
    · cases h
    · simp only at h
      split at h
      · cases h; exact .inr (.inl ⟨he, rfl, rfl⟩)
      · next hok =>
        split at h
        · cases h; exact .inr (.inl ⟨he, rfl, rfl⟩)
        · next ht =>
          cases h
          exact .inr (.inr ⟨he, rfl, by omega, by simpa using hok, by by_contra hc; exact ht (.inl hc), rfl⟩)

/-- SBUS_FRAME as the IDX and SLEN registers hold it. -/
theorem sbusFrame_byte : BitVec.ofNat 8 sbusFrame = 25#8 := rfl

/-- All that storing a byte and completing an SBUS frame can do (R204, R205). -/
theorem sbusData_cases {u u' : SbusUnit} {b : Byte} {r : Bool} (h : sbusData u b = .ok (u', r)) :
    u.dec.idx.toNat < sbusFrame ∧
    ((u.dec.idx + 1 ≠ 25 ∧ r = false ∧
        u' = { u with dec := { u.dec with work := u.dec.work.write u.dec.idx.toNat b, idx := u.dec.idx + 1 } }) ∨
     (u.dec.idx + 1 = 25 ∧ (u.dec.work.write u.dec.idx.toNat b).read 24 ≠ sbusEnd ∧ r = false ∧
        u' = { u with errors := u.errors + 1,
                      dec := { u.dec with work := u.dec.work.write u.dec.idx.toNat b, idx := 0 } }) ∨
     (u.dec.idx + 1 = 25 ∧ (u.dec.work.write u.dec.idx.toNat b).read 24 = sbusEnd ∧ r = true ∧
        u' = { u with dec := { u.dec with
          work := u.dec.work.write u.dec.idx.toNat b
          stable := u.dec.stable.writeBytes 0 ((u.dec.work.write u.dec.idx.toNat b).bytes 0 25)
          slen := 25, empty := false, ready := true, rxcount := u.dec.rxcount + 1, idx := 0 } })) := by
  have e : (25#8).toNat = 25 := rfl
  rw [sbusData, sbusFrame_byte] at h
  split at h
  · cases h
  · next d hd =>
    obtain ⟨hi, rfl⟩ := Decoder.store_ok hd
    refine ⟨hi, ?_⟩
    split at h
    · next ht =>
      split at h
      · next he => cases h; exact .inr (.inl ⟨ht, he, rfl, rfl⟩)
      · next he =>
        split at h
        · cases h
        · next d' hd' =>
          obtain ⟨-, rfl⟩ := Decoder.publish_ok hd'
          rw [e] at h
          cases h
          exact .inr (.inr ⟨ht, not_not.mp he, rfl, by dsimp only; rfl⟩)
    · next ht =>
      cases h
      exact .inl ⟨ht, rfl, rfl⟩

/-- All that SBUS.FEED can do, after the timeout check (R201 to R205). -/
theorem sbusFeed_cases {u u' : SbusUnit} {b : Byte} {now : Word} {r : Bool} (h : sbusFeed u b now = .ok (u', r)) :
    let d := u.dec.resync now sbusBudgetUs
    (d.idx = 0 ∧ b = sbusStart ∧ r = false ∧ u' = { u with dec := d.accept b now }) ∨
    (d.idx = 0 ∧ b ≠ sbusStart ∧ r = false ∧ u' = { u with dec := d.reject }) ∨
    (d.idx ≠ 0 ∧ sbusData { u with dec := d } b = .ok (u', r)) := by
  simp only [sbusFeed] at h
  split at h
  · next h0 =>
    split at h
    · next hs => cases h; exact .inl ⟨h0, hs, rfl, rfl⟩
    · next hs => cases h; exact .inr (.inl ⟨h0, hs, rfl, rfl⟩)
  · next h0 => exact .inr (.inr ⟨h0, h⟩)

/-- All that SBUS.UNPACK does (R210). -/
theorem sbusUnpack_cases (u : SbusUnit) :
    (u.dec.empty = true ∧ sbusUnpack u = (u, false)) ∨
    (u.dec.empty = false ∧
      sbusUnpack u = ({ u with dec := { u.dec with empty := true }, ch := sbusChannels u.dec.stable }, true)) := by
  unfold sbusUnpack
  cases he : u.dec.empty <;> simp

/-- All that model detection can do (R232). -/
theorem ibusDetect_cases {u v : IbusUnit} {b : Byte} (h : ibusDetect u b = some v) :
    ((b = ibusSyncIa6b ∨ b = ibusSyncTelemetry) ∧
      v = { u with model := .ia6b, offset := ibusOffsetIa6b, size := b, seed := ibusSeedIa6b }) ∨
    (b = ibusSyncIa6 ∧
      v = { u with model := .ia6, offset := ibusOffsetIa6, size := ibusFrameIa6, seed := ibusSeedIa6 }) := by
  unfold ibusDetect at h
  split at h
  · next hb => exact .inl ⟨hb, (Option.some.inj h).symm⟩
  · split at h
    · next hb => exact .inr ⟨hb, (Option.some.inj h).symm⟩
    · cases h

/-- All that storing a byte and completing an IBUS frame can do (R234 to R236). -/
theorem ibusData_cases {u u' : IbusUnit} {b : Byte} {r : Bool} (h : ibusData u b = .ok (u', r)) :
    u.dec.idx.toNat < ibusBuf ∧
    ((u.dec.idx + 1 ≠ u.size ∧ r = false ∧
        u' = { u with dec := { u.dec with work := u.dec.work.write u.dec.idx.toNat b, idx := u.dec.idx + 1 } }) ∨
     (u.dec.idx + 1 = u.size ∧ u.size = 4 ∧ r = false ∧
        u' = { u with dec := { u.dec with work := u.dec.work.write u.dec.idx.toNat b, idx := 0 } }) ∨
     (u.dec.idx + 1 = u.size ∧ u.size ≠ 4 ∧ u.size.toNat ≤ ibusBuf ∧ r = true ∧
        u' = { u with
          soffset := u.offset, sseed := u.seed
          dec := { u.dec with
            work := u.dec.work.write u.dec.idx.toNat b
            stable := u.dec.stable.writeBytes 0 ((u.dec.work.write u.dec.idx.toNat b).bytes 0 u.size.toNat)
            slen := u.size, empty := false, ready := true, rxcount := u.dec.rxcount + 1, idx := 0 } })) := by
  unfold ibusData at h
  split at h
  · cases h
  · next d hd =>
    obtain ⟨hi, rfl⟩ := Decoder.store_ok hd
    refine ⟨hi, ?_⟩
    split at h
    · next ht =>
      split at h
      · next he => cases h; exact .inr (.inl ⟨ht, he, rfl, rfl⟩)
      · next he =>
        split at h
        · cases h
        · next d' hd' =>
          obtain ⟨hn, rfl⟩ := Decoder.publish_ok hd'
          cases h
          exact .inr (.inr ⟨ht, he, hn, rfl, by dsimp only⟩)
    · next ht =>
      cases h
      exact .inl ⟨ht, rfl, rfl⟩

/-- All that IBUS.FEED can do, after the timeout check (R231 to R236). -/
theorem ibusFeed_cases {u u' : IbusUnit} {b : Byte} {now : Word} {r : Bool} (h : ibusFeed u b now = .ok (u', r)) :
    let d := u.dec.resync now ibusBudgetUs
    (d.idx = 0 ∧ r = false ∧ ∃ v, ibusDetect { u with dec := d } b = some v ∧ u' = { v with dec := d.accept b now }) ∨
    (d.idx = 0 ∧ r = false ∧ ibusDetect { u with dec := d } b = none ∧ u' = { u with dec := d.reject }) ∨
    (d.idx ≠ 0 ∧ ibusData { u with dec := d } b = .ok (u', r)) := by
  simp only [ibusFeed] at h
  split at h
  · next h0 =>
    split at h
    · next v hv =>
      cases h
      refine .inl ⟨h0, rfl, v, hv, ?_⟩
      obtain ⟨-, rfl⟩ | ⟨-, rfl⟩ := ibusDetect_cases hv <;> rfl
    · next hv => cases h; exact .inr (.inl ⟨h0, rfl, hv, rfl⟩)
  · next h0 => exact .inr (.inr ⟨h0, h⟩)

/-- All that IBUS.UNPACK can do (R240). -/
theorem ibusUnpack_cases {u u' : IbusUnit} {r : Bool} (h : ibusUnpack u = .ok (u', r)) :
    (u.dec.empty = true ∧ r = false ∧ u' = u) ∨
    (u.dec.empty = false ∧ r = false ∧ u' = { u with dec := { u.dec with empty := true } }) ∨
    (u.dec.empty = false ∧ r = true ∧ ibusFrameOk u.dec.stable u.dec.slen.toNat u.soffset.toNat u.sseed = true ∧
      u' = { u with ch := ibusChannels u.dec.stable u.soffset.toNat, dec := { u.dec with empty := true } }) := by
  unfold ibusUnpack at h
  split at h
  · next he => cases h; exact .inl ⟨he, rfl, rfl⟩
  · next he =>
    have he : u.dec.empty = false := by simpa using he
    split at h
    · cases h
    · simp only at h
      split at h
      · cases h; exact .inr (.inl ⟨he, rfl, rfl⟩)
      · next hok => cases h; exact .inr (.inr ⟨he, rfl, by simpa using hok, rfl⟩)

/-- A step of a unit that answers a next state ended with its result. -/
theorem State.endCrsf_next {s s' : State} {x : Except Fault (CrsfUnit × Bool)} (h : s.endCrsf x = .next s') :
    ∃ u r, x = .ok (u, r) ∧ s' = { s with crsf := u, reply := some ⟨.ok, boolWord r, []⟩ } := by
  unfold State.endCrsf at h
  split at h
  · cases h
  · next u r => cases h; exact ⟨u, r, rfl, rfl⟩

/-- As `State.endCrsf_next`, for SBUS. -/
theorem State.endSbus_next {s s' : State} {x : Except Fault (SbusUnit × Bool)} (h : s.endSbus x = .next s') :
    ∃ u r, x = .ok (u, r) ∧ s' = { s with sbus := u, reply := some ⟨.ok, boolWord r, []⟩ } := by
  unfold State.endSbus at h
  split at h
  · cases h
  · next u r => cases h; exact ⟨u, r, rfl, rfl⟩

/-- As `State.endCrsf_next`, for IBUS. -/
theorem State.endIbus_next {s s' : State} {x : Except Fault (IbusUnit × Bool)} (h : s.endIbus x = .next s') :
    ∃ u r, x = .ok (u, r) ∧ s' = { s with ibus := u, reply := some ⟨.ok, boolWord r, []⟩ } := by
  unfold State.endIbus at h
  split at h
  · cases h
  · next u r => cases h; exact ⟨u, r, rfl, rfl⟩

end Sys2Proof.Machine
end

