-- ==== Sys2Proof/Laws/Exec.lean ====
section
/-! SUPPORT. All that one command can do to the state (spec/30_encoding.md R110): `exec_effect` says it once, and every frame and
invariant is a case analysis over `Effect`. -/

namespace Sys2Proof.Machine

/-- The command waits for a signal, or takes one. -/
def waitsFor : Instr → Option WaitTarget
  | .crsfWait _ | .crsfTake => some .crsf
  | .sbusWait _ | .sbusTake => some .sbus
  | .ibusWait _ | .ibusTake => some .ibus
  | .ptWait p _ | .ptTake p => some (.peer p)
  | _ => none

/-- The command is a byte event of a decoder unit. -/
def isFeed : Instr → Bool
  | .crsfFeed _ | .sbusFeed _ | .ibusFeed _ => true
  | _ => false

/-- What a command that ends in a next state did. -/
inductive Effect : Instr → State → State → Prop where
  /-- it only answered: a readout, a failure, an expired timed wait -/
  | answer (i : Instr) (s : State) (r : Reply) (n : Nat) (h : isFeed i = false) : Effect i s { s with reply := some r, freeCount := n }
  /-- it waits -/
  | block (s : State) (w : PendingWait) (h : s.readyOf w.target = false) (hp : pendingWaitOk w) :
      Effect w.instr s (s.block w)
  /-- it took a readiness signal -/
  | take (i : Instr) (s : State) (t : WaitTarget) (v : Word) (h : waitsFor i = some t) :
      Effect i s ((s.clearReady t).finish v)
  | crsfFeed (s : State) (b : Byte) (u : CrsfUnit) (r : Bool) (h : crsfFeed s.crsf b s.env.timeUs = .ok (u, r)) :
      Effect (.crsfFeed b) s { s with crsf := u, reply := some ⟨.ok, boolWord r, []⟩ }
  | crsfUnpack (s : State) (u : CrsfUnit) (r : Bool) (h : crsfUnpack s.crsf = .ok (u, r)) :
      Effect .crsfUnpack s { s with crsf := u, reply := some ⟨.ok, boolWord r, []⟩ }
  | sbusFeed (s : State) (b : Byte) (u : SbusUnit) (r : Bool) (h : sbusFeed s.sbus b s.env.timeUs = .ok (u, r)) :
      Effect (.sbusFeed b) s { s with sbus := u, reply := some ⟨.ok, boolWord r, []⟩ }
  | sbusUnpack (s : State) (u : SbusUnit) (r : Bool) (h : sbusUnpack s.sbus = (u, r)) :
      Effect .sbusUnpack s { s with sbus := u, reply := some ⟨.ok, boolWord r, []⟩ }
  | ibusFeed (s : State) (b : Byte) (u : IbusUnit) (r : Bool) (h : ibusFeed s.ibus b s.env.timeUs = .ok (u, r)) :
      Effect (.ibusFeed b) s { s with ibus := u, reply := some ⟨.ok, boolWord r, []⟩ }
  | ibusUnpack (s : State) (u : IbusUnit) (r : Bool) (h : ibusUnpack s.ibus = .ok (u, r)) :
      Effect .ibusUnpack s { s with ibus := u, reply := some ⟨.ok, boolWord r, []⟩ }
  | setupPrimary (s : State) (enc : Bool) (ch : Byte) (cap : Half) (h : cap.toNat ≤ 256) :
      Effect (.ptSetupPrimary enc ch cap) s
        { s with pt := { s.pt with pri := s.pt.pri.setup enc ch cap }, reply := some ⟨.ok, 0, []⟩ }
  | setPrimaryAddr (s : State) (a : Addr) (h : s.pt.pri.aset = false) (hb : a ≠ bcastAddr) (hz : a ≠ zeroAddr)
      (hs : ¬ (s.pt.sec.aset = true ∧ a = s.pt.sec.addr)) :
      Effect (.ptSetPrimaryAddr a) s
        { s with pt := { s.pt with pri := { s.pt.pri with addr := a, aset := true } }, reply := some ⟨.ok, 0, []⟩ }
  | addSecondary (s : State) (enc : Bool) (ch : Byte) (cap : Half) (o : Option Addr) (h : cap.toNat ≤ 256)
      (hr : secondaryAddrRefused s.pt o = false) :
      Effect (.ptAddSecondary enc ch cap o) s
        { s with pt := { s.pt with sec := (s.pt.sec.setup enc ch cap).setAddr o }, reply := some ⟨.ok, 0, []⟩ }
  | rx (s : State) (src : Addr) (data : List Byte) (t : Transceiver) (r : Word)
      (h : ptReceive s.pt src data s.env.tick = .ok (t, r)) :
      Effect (.ptRx src data) s { s with pt := t, reply := some ⟨.ok, r, []⟩ }
  | send (s : State) (p : PeerId) (z : Bool) (data : List Byte) (dest : Addr) (r : Reply) (n : Nat) :
      Effect (.ptSend p z data) s { s with radioTx := s.radioTx ++ [⟨dest, data⟩], reply := some r, freeCount := n }
  | announce (s : State) (n : Byte) (dly : Half) (h : n ≠ 0) :
      Effect (.ptBcastId n dly) s { s with pt := { s.pt with bidActive := true, bidLeft := n }, reply := none }

theorem effect_readStatus (i : Instr) (s : State) (o : Option Word) (h : isFeed i = false) :
    Effect i s (s.readStatus o) := by
  cases o <;> exact .answer i s _ _ h

theorem effect_take (i : Instr) (s : State) (t : WaitTarget) (h : waitsFor i = some t) : Effect i s (s.take t) :=
  .take i s t _ h

theorem effect_wait (s : State) (w : PendingWait) (hp : pendingWaitOk w) : Effect w.instr s (s.wait w.target w.mode) := by
  obtain ⟨-, h⟩ | ⟨-, -, -, h⟩ | ⟨hr, -, h⟩ := State.wait_cases s w.target w.mode
  · rw [h]; exact .take _ _ _ _ (by obtain ⟨t, m⟩ := w; cases t <;> rfl)
  · rw [h]; exact .answer _ s _ _ (by obtain ⟨t, m⟩ := w; cases t <;> rfl)
  · rw [h]; exact .block s w hr hp

theorem effect_failWith (i : Instr) (s : State) (st : Status) (h : isFeed i = false) : Effect i s (s.failWith st) :=
  .answer i s _ _ h

/-- Every command that answers a next state did one of the effects above. -/
theorem exec_effect {i : Instr} {s s' : State} (h : exec i s = .next s') : Effect i s s' := by
  cases i with
  | crsfFeed b => obtain ⟨u, r, hu, rfl⟩ := State.endCrsf_next h; exact .crsfFeed s b u r hu
  | crsfUnpack => obtain ⟨u, r, hu, rfl⟩ := State.endCrsf_next h; exact .crsfUnpack s u r hu
  | crsfChraw i => cases h; exact .answer _ s _ _ rfl
  | crsfChpwm i => cases h; exact .answer _ s _ _ rfl
  | crsfStatus sel => cases h; exact effect_readStatus _ s _ rfl
  | crsfTake => cases h; exact effect_take _ s _ rfl
  | crsfWait t => cases h; exact effect_wait s ⟨.crsf, t⟩ (by rintro p ⟨⟩)
  | sbusFeed b => obtain ⟨u, r, hu, rfl⟩ := State.endSbus_next h; exact .sbusFeed s b u r hu
  | sbusUnpack =>
    obtain ⟨u, r, hu, rfl⟩ := State.endSbus_next (x := .ok (sbusUnpack s.sbus)) h
    exact .sbusUnpack s u r (Except.ok.inj hu)
  | sbusChraw i => cases h; exact .answer _ s _ _ rfl
  | sbusChpwm i => cases h; exact .answer _ s _ _ rfl
  | sbusStatus sel => cases h; exact effect_readStatus _ s _ rfl
  | sbusTake => cases h; exact effect_take _ s _ rfl
  | sbusWait t => cases h; exact effect_wait s ⟨.sbus, t⟩ (by rintro p ⟨⟩)
  | ibusFeed b => obtain ⟨u, r, hu, rfl⟩ := State.endIbus_next h; exact .ibusFeed s b u r hu
  | ibusUnpack => obtain ⟨u, r, hu, rfl⟩ := State.endIbus_next h; exact .ibusUnpack s u r hu
  | ibusChraw i => cases h; exact .answer _ s _ _ rfl
  | ibusChpwm i => cases h; exact .answer _ s _ _ rfl
  | ibusStatus sel => cases h; exact effect_readStatus _ s _ rfl
  | ibusTake => cases h; exact effect_take _ s _ rfl
  | ibusWait t => cases h; exact effect_wait s ⟨.ibus, t⟩ (by rintro p ⟨⟩)
  | ibusGetmodel => cases h; exact .answer _ s _ _ rfl
  | valCrc8 ci b => cases h; exact .answer _ s _ _ rfl
  | valSum16 w => cases h; exact .answer _ s _ _ rfl
  | fpcDecode w => cases h; exact .answer _ s _ _ rfl
  | fpcEncode q => cases h; exact .answer _ s _ _ rfl
  | ptSetupPrimary enc ch cap =>
    cases h
    obtain ⟨-, h⟩ | ⟨hc, h⟩ := ptSetupPrimary_cases enc ch cap s
    · rw [h]; exact effect_failWith _ s _ rfl
    · rw [h]; exact .setupPrimary s enc ch cap hc
  | ptSetPrimaryAddr a =>
    cases h
    obtain ⟨-, h⟩ | ⟨-, -, h⟩ | ⟨ha, hb, hz, hs, h⟩ := ptSetPrimaryAddr_cases a s
    · rw [h]; exact effect_failWith _ s _ rfl
    · rw [h]; exact effect_failWith _ s _ rfl
    · rw [h]; exact .setPrimaryAddr s a ha hb hz hs
  | ptAddSecondary enc ch cap o =>
    cases h
    obtain ⟨-, h⟩ | ⟨hc, hr, h⟩ := ptAddSecondary_cases enc ch cap o s
    · rw [h]; exact effect_failWith _ s _ rfl
    · rw [h]; exact .addSecondary s enc ch cap o hc hr
  | ptRx src data => obtain ⟨t, r, ht, rfl⟩ := State.endRx_next h; exact .rx s src data t r ht
  | ptSend p z data =>
    cases h
    obtain h | h | ⟨-, h⟩ | ⟨-, h⟩ := ptSend_cases p z data s
    · rw [h]; exact effect_failWith _ s _ rfl
    · rw [h]; exact effect_failWith _ s _ rfl
    · rw [h]; exact .send s p z data _ _ _
    · rw [h]; exact .send s p z data _ _ _
  | ptBcastId n dly =>
    cases h
    unfold ptBcastIdStart
    split
    · exact .answer _ s _ _ rfl
    · next hn => exact .announce s n dly hn
  | ptGetMyId => cases h; exact .answer _ s _ _ rfl
  | ptGetPrimaryId => cases h; exact .answer _ s _ _ rfl
  | ptTake p =>
    cases h
    obtain ⟨-, h⟩ | ⟨-, h⟩ := State.onReceiver_cases s p (s.take (.peer p))
    · rw [h]; exact effect_take _ s _ rfl
    · rw [h]; exact effect_failWith _ s _ rfl
  | ptWait p t =>
    cases h
    obtain ⟨hr, h⟩ | ⟨-, h⟩ := State.onReceiver_cases s p (s.wait (.peer p) t)
    · rw [h]; exact effect_wait s ⟨.peer p, t⟩ (by rintro q ⟨⟩; exact hr)
    · rw [h]; exact effect_failWith _ s _ rfl
  | ptReadbuf p x =>
    cases h
    obtain ⟨-, h⟩ | ⟨-, h⟩ := State.onReceiver_cases s p (ptReadByte (s.pt.slot p) x s)
    · obtain ⟨-, h'⟩ | ⟨-, h'⟩ := ptReadByte_cases (s.pt.slot p) x s <;> rw [h, h'] <;> exact .answer _ s _ _ rfl
    · rw [h]; exact effect_failWith _ s _ rfl
  | ptGetlen p =>
    cases h
    obtain ⟨-, h⟩ | ⟨-, h⟩ := State.onReceiver_cases s p (s.finish ((s.pt.slot p).len.setWidth 32))
    · rw [h]; exact .answer _ s _ _ rfl
    · rw [h]; exact effect_failWith _ s _ rfl
  | ptRxcount => cases h; exact .answer _ s _ _ rfl
  | ptTickdelta => cases h; exact .answer _ s _ _ rfl

end Sys2Proof.Machine
end

