-- ==== Sys2Proof/Laws/PerInstr.lean ====
section
/-! SUPPORT. A statement about every command as syntax: its encoding is as long as its own word says (spec/30_encoding.md
R100, R110). -/

namespace Sys2Proof.Laws

/-- The bytes that spell a well-formed command are as many as the word at their head announces (R100). -/
def EncodeLength.Statement (i : Instr) : Prop :=
  i.wellFormed = true → (encode i).length = commandLength (encode i)

/-- A command's word names its opcode, so its length is 4 and the data bytes of its format. -/
theorem commandLength_word (o : Opcode) (hi mid lo : Byte) (rest : List Byte) :
    commandLength (wordBytes (opByte o) hi mid lo ++ rest) = 4 + dataLen o ⟨opByte o, hi, mid, lo⟩ := by
  simp only [wordBytes, commandLength, List.cons_append, opOfByte_opByte]

/-- The length field of PT.RX and PT.SEND (R108, R109) holds the length of a data string it can name. -/
theorem wordLen_length (op hi : Byte) {n : Nat} (h : n ≤ maxDataLen) :
    wordLen ⟨op, hi, byteOf (BitVec.ofNat 16 n) 1, byteOf (BitVec.ofNat 16 n) 0⟩ = n := by
  simp only [wordLen, le16_byteOf, BitVec.toNat_ofNat, maxDataLen] at *
  omega

theorem EncodeLength.crsfFeed (b : Byte) : EncodeLength.Statement (.crsfFeed b) := by
  intro _
  exact (commandLength_word .crsfFeed _ _ _ []).symm

theorem EncodeLength.crsfUnpack : EncodeLength.Statement .crsfUnpack := by
  intro _
  exact (commandLength_word .crsfUnpack _ _ _ []).symm

theorem EncodeLength.crsfChraw (i : Byte) : EncodeLength.Statement (.crsfChraw i) := by
  intro _
  exact (commandLength_word .crsfChraw _ _ _ []).symm

theorem EncodeLength.crsfChpwm (i : Byte) : EncodeLength.Statement (.crsfChpwm i) := by
  intro _
  exact (commandLength_word .crsfChpwm _ _ _ []).symm

theorem EncodeLength.crsfStatus (sel : Byte) : EncodeLength.Statement (.crsfStatus sel) := by
  intro _
  exact (commandLength_word .crsfStatus _ _ _ []).symm

theorem EncodeLength.crsfTake : EncodeLength.Statement .crsfTake := by
  intro _
  exact (commandLength_word .crsfTake _ _ _ []).symm

theorem EncodeLength.crsfWait (t : WaitMode) : EncodeLength.Statement (.crsfWait t) := by
  intro _
  exact (commandLength_word .crsfWait _ _ _ []).symm

theorem EncodeLength.sbusFeed (b : Byte) : EncodeLength.Statement (.sbusFeed b) := by
  intro _
  exact (commandLength_word .sbusFeed _ _ _ []).symm

theorem EncodeLength.sbusUnpack : EncodeLength.Statement .sbusUnpack := by
  intro _
  exact (commandLength_word .sbusUnpack _ _ _ []).symm

theorem EncodeLength.sbusChraw (i : Byte) : EncodeLength.Statement (.sbusChraw i) := by
  intro _
  exact (commandLength_word .sbusChraw _ _ _ []).symm

theorem EncodeLength.sbusChpwm (i : Byte) : EncodeLength.Statement (.sbusChpwm i) := by
  intro _
  exact (commandLength_word .sbusChpwm _ _ _ []).symm

theorem EncodeLength.sbusStatus (sel : Byte) : EncodeLength.Statement (.sbusStatus sel) := by
  intro _
  exact (commandLength_word .sbusStatus _ _ _ []).symm

theorem EncodeLength.sbusTake : EncodeLength.Statement .sbusTake := by
  intro _
  exact (commandLength_word .sbusTake _ _ _ []).symm

theorem EncodeLength.sbusWait (t : WaitMode) : EncodeLength.Statement (.sbusWait t) := by
  intro _
  exact (commandLength_word .sbusWait _ _ _ []).symm

theorem EncodeLength.ibusFeed (b : Byte) : EncodeLength.Statement (.ibusFeed b) := by
  intro _
  exact (commandLength_word .ibusFeed _ _ _ []).symm

theorem EncodeLength.ibusUnpack : EncodeLength.Statement .ibusUnpack := by
  intro _
  exact (commandLength_word .ibusUnpack _ _ _ []).symm

theorem EncodeLength.ibusChraw (i : Byte) : EncodeLength.Statement (.ibusChraw i) := by
  intro _
  exact (commandLength_word .ibusChraw _ _ _ []).symm

theorem EncodeLength.ibusChpwm (i : Byte) : EncodeLength.Statement (.ibusChpwm i) := by
  intro _
  exact (commandLength_word .ibusChpwm _ _ _ []).symm

theorem EncodeLength.ibusStatus (sel : Byte) : EncodeLength.Statement (.ibusStatus sel) := by
  intro _
  exact (commandLength_word .ibusStatus _ _ _ []).symm

theorem EncodeLength.ibusTake : EncodeLength.Statement .ibusTake := by
  intro _
  exact (commandLength_word .ibusTake _ _ _ []).symm

theorem EncodeLength.ibusWait (t : WaitMode) : EncodeLength.Statement (.ibusWait t) := by
  intro _
  exact (commandLength_word .ibusWait _ _ _ []).symm

theorem EncodeLength.ibusGetmodel : EncodeLength.Statement .ibusGetmodel := by
  intro _
  exact (commandLength_word .ibusGetmodel _ _ _ []).symm

theorem EncodeLength.valCrc8 (ci : Byte) (b : Byte) : EncodeLength.Statement (.valCrc8 ci b) := by
  intro _
  exact (commandLength_word .valCrc8 _ _ _ []).symm

theorem EncodeLength.valSum16 (w : Word) : EncodeLength.Statement (.valSum16 w) := by
  intro _
  exact (commandLength_word .valSum16 _ _ _ (le32Bytes w)).symm

theorem EncodeLength.fpcDecode (w : Word) : EncodeLength.Statement (.fpcDecode w) := by
  intro _
  exact (commandLength_word .fpcDecode _ _ _ (le32Bytes w)).symm

theorem EncodeLength.fpcEncode (w : Word) : EncodeLength.Statement (.fpcEncode w) := by
  intro _
  exact (commandLength_word .fpcEncode _ _ _ (le32Bytes w)).symm

theorem EncodeLength.ptSetupPrimary (enc : Bool) (ch : Byte) (cap : Half) : EncodeLength.Statement (.ptSetupPrimary enc ch cap) := by
  intro _
  exact (commandLength_word .ptSetupPrimary _ _ _ [byteOf cap 0, byteOf cap 1]).symm

theorem EncodeLength.ptSetPrimaryAddr (a : Addr) : EncodeLength.Statement (.ptSetPrimaryAddr a) := by
  intro _
  exact (commandLength_word .ptSetPrimaryAddr _ _ _ (addrBytes a)).symm

theorem EncodeLength.ptAddSecondary (enc : Bool) (ch : Byte) (cap : Half) (a : Option Addr) : EncodeLength.Statement (.ptAddSecondary enc ch cap a) := by
  intro _
  cases a <;>
  · simp only [encode, List.append_assoc, commandLength_word]
    simp [dataLen, opFormat, wordBytes, addrBytes]
    cases enc <;> decide

theorem EncodeLength.ptRx (src : Addr) (data : List Byte) : EncodeLength.Statement (.ptRx src data) := by
  intro h
  have h : data.length ≤ maxDataLen := by simpa [Instr.wellFormed] using h
  simp only [encode, List.append_assoc, commandLength_word, dataLen, opFormat, wordLen_length _ _ h]
  simp [wordBytes, addrBytes]
  omega

theorem EncodeLength.ptSend (p : PeerId) (isNull : Bool) (data : List Byte) : EncodeLength.Statement (.ptSend p isNull data) := by
  intro h
  have h : data.length ≤ maxDataLen := by simpa [Instr.wellFormed] using h
  simp only [encode, commandLength_word, dataLen, opFormat, wordLen_length _ _ h]
  simp [wordBytes]
  omega

theorem EncodeLength.ptBcastId (n : Byte) (dly : Half) : EncodeLength.Statement (.ptBcastId n dly) := by
  intro _
  exact (commandLength_word .ptBcastId _ _ _ []).symm

theorem EncodeLength.ptGetMyId : EncodeLength.Statement .ptGetMyId := by
  intro _
  exact (commandLength_word .ptGetMyId _ _ _ []).symm

theorem EncodeLength.ptGetPrimaryId : EncodeLength.Statement .ptGetPrimaryId := by
  intro _
  exact (commandLength_word .ptGetPrimaryId _ _ _ []).symm

theorem EncodeLength.ptTake (p : PeerId) : EncodeLength.Statement (.ptTake p) := by
  intro _
  exact (commandLength_word .ptTake _ _ _ []).symm

theorem EncodeLength.ptWait (p : PeerId) (t : WaitMode) : EncodeLength.Statement (.ptWait p t) := by
  intro _
  exact (commandLength_word .ptWait _ _ _ []).symm

theorem EncodeLength.ptReadbuf (p : PeerId) (x : Byte) : EncodeLength.Statement (.ptReadbuf p x) := by
  intro _
  exact (commandLength_word .ptReadbuf _ _ _ []).symm

theorem EncodeLength.ptGetlen (p : PeerId) : EncodeLength.Statement (.ptGetlen p) := by
  intro _
  exact (commandLength_word .ptGetlen _ _ _ []).symm

theorem EncodeLength.ptRxcount : EncodeLength.Statement .ptRxcount := by
  intro _
  exact (commandLength_word .ptRxcount _ _ _ []).symm

theorem EncodeLength.ptTickdelta : EncodeLength.Statement .ptTickdelta := by
  intro _
  exact (commandLength_word .ptTickdelta _ _ _ []).symm

end Sys2Proof.Laws
end

