-- ==== Sys2Proof/Laws/Step.lean ====
section
/-! SUPPORT. All that one step can do (spec/60_exceptions.md R404 to R408), and runs of several steps. -/

namespace Sys2Proof.Machine

/-- A command that another agent than the consumer issues is a FEED or a PT.RX (R406). -/
theorem issuer_ne_consumer {d : Inline} {i : Instr} (h : issuer d i ≠ .consumer) :
    isFeed i = true ∨ ∃ src data, i = .ptRx src data := by
  cases i <;> simp_all [issuer, isFeed]

/-- All that taking a command of CMD can do: nothing, the command its issuer executes, or the consumer's refusal. -/
theorem stepCommand_cases {a : Agent} {s s' : State} (h : stepCommand a s = .next s') :
    s' = s ∨
    (∃ i bytes, decode s.cmd = .instr i bytes ∧ issuer s.env.inline i = a ∧ exec i { s with cmd := bytes } = .next s') ∨
    (a = .consumer ∧ ∃ why bytes, decode s.cmd = .illegal why bytes ∧
      s' = State.failWith { s with cmd := bytes } .illegal) := by
  unfold stepCommand at h
  split at h
  · next i bytes hd =>
    split at h
    · next hi => exact .inr (.inl ⟨i, bytes, hd, hi, h⟩)
    · cases h; exact .inl rfl
  · next why bytes hd =>
    split at h
    · next ha => cases h; exact .inr (.inr ⟨ha, why, bytes, hd, rfl⟩)
    · cases h; exact .inl rfl
  · cases h; exact .inl rfl

/-- What an agent does at its turn: nothing, an event of its own port, the announcement's next send, the blocked WAIT again, or a
command of CMD. -/
theorem stepAgent_cases {a : Agent} {s s' : State} (h : stepAgent a s = .next s') :
    s' = s ∨
    (a = .pCrsf ∧ s.env.inline.crsf = false ∧ ∃ b bs, s.byteInCrsf = b :: bs ∧
      exec (.crsfFeed b) { s with byteInCrsf := bs } = .next s') ∨
    (a = .pSbus ∧ s.env.inline.sbus = false ∧ ∃ b bs, s.byteInSbus = b :: bs ∧
      exec (.sbusFeed b) { s with byteInSbus := bs } = .next s') ∨
    (a = .pIbus ∧ s.env.inline.ibus = false ∧ ∃ b bs, s.byteInIbus = b :: bs ∧
      exec (.ibusFeed b) { s with byteInIbus := bs } = .next s') ∨
    (a = .pRadio ∧ ∃ f fs, s.radioRx = f :: fs ∧ exec (.ptRx f.src f.data) { s with radioRx := fs } = .next s') ∨
    (a = .consumer ∧ s.pt.bidActive = true ∧ s' = ptBcastIdSend s) ∨
    (a = .consumer ∧ s.pt.bidActive = false ∧ ∃ w, s.waiting = some w ∧
      exec w.instr { s with waiting := none } = .next s') ∨
    ((a = .consumer → s.pt.bidActive = false ∧ s.waiting = none) ∧ stepCommand a s = .next s') := by
  cases a <;> simp only [stepAgent] at h
  · simp only [stepCrsfByte] at h
    split at h
    · exact .inr (.inr (.inr (.inr (.inr (.inr (.inr ⟨nofun, h⟩))))))
    · next b bs hb =>
      split at h
      · cases h; exact .inl rfl
      · next hi => exact .inr (.inl ⟨rfl, by simpa using hi, b, bs, hb, h⟩)
  · simp only [stepSbusByte] at h
    split at h
    · exact .inr (.inr (.inr (.inr (.inr (.inr (.inr ⟨nofun, h⟩))))))
    · next b bs hb =>
      split at h
      · cases h; exact .inl rfl
      · next hi => exact .inr (.inr (.inl ⟨rfl, by simpa using hi, b, bs, hb, h⟩))
  · simp only [stepIbusByte] at h
    split at h
    · exact .inr (.inr (.inr (.inr (.inr (.inr (.inr ⟨nofun, h⟩))))))
    · next b bs hb =>
      split at h
      · cases h; exact .inl rfl
      · next hi => exact .inr (.inr (.inr (.inl ⟨rfl, by simpa using hi, b, bs, hb, h⟩)))
  · simp only [stepRadioFrame] at h
    split at h
    · exact .inr (.inr (.inr (.inr (.inr (.inr (.inr ⟨nofun, h⟩))))))
    · next f fs hf => exact .inr (.inr (.inr (.inr (.inl ⟨rfl, f, fs, hf, h⟩))))
  · simp only [stepConsumer] at h
    split at h
    · next hb => cases h; exact .inr (.inr (.inr (.inr (.inr (.inl ⟨rfl, hb, rfl⟩)))))
    · next hb =>
      have hb : s.pt.bidActive = false := by simpa using hb
      split at h
      · next w hw => exact .inr (.inr (.inr (.inr (.inr (.inr (.inl ⟨rfl, hb, w, hw, h⟩))))))
      · next hw => exact .inr (.inr (.inr (.inr (.inr (.inr (.inr ⟨fun _ => ⟨hb, hw⟩, h⟩))))))

/-- All that a step which answers a next state can have done: stand still, take a turn in which nothing happens, or take a turn
and perform one event of a port, one command of CMD that this agent issues, one retry of a blocked WAIT, one refusal or one
announcement send. -/
theorem step_cases {s s' : State} (h : step s = .next s') :
    (s.turns = [] ∧ s' = s) ∨
    ∃ t rest, s.turns = t :: rest ∧
      (s' = s.beginTurn t rest ∨
       (t.agent = .pCrsf ∧ t.env.inline.crsf = false ∧ ∃ b bs, s.byteInCrsf = b :: bs ∧
         exec (.crsfFeed b) { s.beginTurn t rest with byteInCrsf := bs } = .next s') ∨
       (t.agent = .pSbus ∧ t.env.inline.sbus = false ∧ ∃ b bs, s.byteInSbus = b :: bs ∧
         exec (.sbusFeed b) { s.beginTurn t rest with byteInSbus := bs } = .next s') ∨
       (t.agent = .pIbus ∧ t.env.inline.ibus = false ∧ ∃ b bs, s.byteInIbus = b :: bs ∧
         exec (.ibusFeed b) { s.beginTurn t rest with byteInIbus := bs } = .next s') ∨
       (t.agent = .pRadio ∧ ∃ f fs, s.radioRx = f :: fs ∧
         exec (.ptRx f.src f.data) { s.beginTurn t rest with radioRx := fs } = .next s') ∨
       (t.agent = .consumer ∧ s.pt.bidActive = true ∧ s' = ptBcastIdSend (s.beginTurn t rest)) ∨
       (t.agent = .consumer ∧ s.pt.bidActive = false ∧ ∃ w, s.waiting = some w ∧
         exec w.instr { s.beginTurn t rest with waiting := none } = .next s') ∨
       ((t.agent = .consumer → s.pt.bidActive = false ∧ s.waiting = none) ∧
         ∃ i bytes, decode s.cmd = .instr i bytes ∧ issuer t.env.inline i = t.agent ∧
           exec i { s.beginTurn t rest with cmd := bytes } = .next s') ∨
       (t.agent = .consumer ∧ s.pt.bidActive = false ∧ s.waiting = none ∧ ∃ why bytes, decode s.cmd = .illegal why bytes ∧
         s' = State.failWith { s.beginTurn t rest with cmd := bytes } .illegal)) := by
  unfold step at h
  split at h
  · next ht => cases h; exact .inl ⟨ht, rfl⟩
  next t rest ht =>
  refine .inr ⟨t, rest, ht, ?_⟩
  obtain h | h | h | h | h | h | h | ⟨hc, h⟩ := stepAgent_cases h
  · exact .inl h
  · exact .inr (.inl h)
  · exact .inr (.inr (.inl h))
  · exact .inr (.inr (.inr (.inl h)))
  · exact .inr (.inr (.inr (.inr (.inl h))))
  · exact .inr (.inr (.inr (.inr (.inr (.inl h)))))
  · exact .inr (.inr (.inr (.inr (.inr (.inr (.inl h))))))
  · obtain h | ⟨i, bytes, hd, hi, h⟩ | ⟨ha, why, bytes, hd, h⟩ := stepCommand_cases h
    · exact .inl h
    · exact .inr (.inr (.inr (.inr (.inr (.inr (.inr (.inl ⟨hc, i, bytes, hd, hi, h⟩)))))))
    · exact .inr (.inr (.inr (.inr (.inr (.inr (.inr (.inr ⟨ha, (hc ha).1, (hc ha).2, why, bytes, hd, h⟩)))))))

/-- Two states agree on every register of the block. -/
def sameBlock (s s' : State) : Prop :=
  s'.crsf = s.crsf ∧ s'.sbus = s.sbus ∧ s'.ibus = s.ibus ∧ s'.pt = s.pt

/-- What a step does to the block's registers: nothing; one announcement send; the effect of one producer command, which leaves
the consumer's wait as it is; or the effect of one command of the consumer, which is then in no other command. -/
theorem step_effect {s s' : State} (h : step s = .next s') :
    (sameBlock s s' ∧ s'.waiting = s.waiting) ∨
    (∃ s0, sameBlock s s0 ∧ s0.waiting = s.waiting ∧ s.pt.bidActive = true ∧ s' = ptBcastIdSend s0) ∨
    (∃ s0 i, sameBlock s s0 ∧ s0.waiting = s.waiting ∧ (isFeed i = true ∨ ∃ src data, i = .ptRx src data) ∧
      Effect i s0 s') ∨
    (∃ s0 i, sameBlock s s0 ∧ s0.waiting = none ∧ s.pt.bidActive = false ∧ Effect i s0 s') := by
  obtain ⟨-, rfl⟩ | ⟨t, rest, -, h⟩ := step_cases h
  · exact .inl ⟨⟨rfl, rfl, rfl, rfl⟩, rfl⟩
  obtain rfl | ⟨-, -, b, bs, -, h⟩ | ⟨-, -, b, bs, -, h⟩ | ⟨-, -, b, bs, -, h⟩ | ⟨-, f, fs, -, h⟩ | ⟨-, hb, h⟩ | ⟨-, hb, w, -, h⟩ |
    ⟨hc, i, bytes, -, hi, h⟩ | ⟨-, -, -, -, bytes, -, rfl⟩ := h
  · exact .inl ⟨⟨rfl, rfl, rfl, rfl⟩, rfl⟩
  · exact .inr (.inr (.inl ⟨_, _, by exact ⟨rfl, rfl, rfl, rfl⟩, by exact rfl, by exact .inl rfl, exec_effect h⟩))
  · exact .inr (.inr (.inl ⟨_, _, by exact ⟨rfl, rfl, rfl, rfl⟩, by exact rfl, by exact .inl rfl, exec_effect h⟩))
  · exact .inr (.inr (.inl ⟨_, _, by exact ⟨rfl, rfl, rfl, rfl⟩, by exact rfl, by exact .inl rfl, exec_effect h⟩))
  · exact .inr (.inr (.inl ⟨_, _, by exact ⟨rfl, rfl, rfl, rfl⟩, by exact rfl, .inr ⟨_, _, by exact rfl⟩, exec_effect h⟩))
  · exact .inr (.inl ⟨s.beginTurn t rest, ⟨rfl, rfl, rfl, rfl⟩, rfl, hb, h⟩)
  · exact .inr (.inr (.inr ⟨_, _, by exact ⟨rfl, rfl, rfl, rfl⟩, by exact rfl, hb, exec_effect h⟩))
  · by_cases ha : t.agent = .consumer
    · exact .inr (.inr (.inr ⟨_, _, by exact ⟨rfl, rfl, rfl, rfl⟩, by exact (hc ha).2, (hc ha).1, exec_effect h⟩))
    · exact .inr (.inr (.inl ⟨_, _, by exact ⟨rfl, rfl, rfl, rfl⟩, by exact rfl, by exact issuer_ne_consumer (hi ▸ ha), exec_effect h⟩))
  · exact .inl ⟨⟨rfl, rfl, rfl, rfl⟩, rfl⟩

theorem run_zero (s : State) : Host.Core.run Sys2Proof.core 0 s = .next s := rfl

/-- A run of k + 1 steps is its first step and a run of k. -/
theorem run_succ {s s' : State} (h : step s = .next s') (k : Nat) :
    Host.Core.run Sys2Proof.core (k + 1) s = Host.Core.run Sys2Proof.core k s' := by
  have h' : Sys2Proof.core.step s = .next s' := h
  simp only [Host.Core.run, h']

/-- The step of the byte producer of CRSF with a byte presented. -/
theorem step_crsfByte {s : State} {t : Turn} {ts : List Turn} {b : Byte} {bs : List Byte} (ht : s.turns = t :: ts)
    (ha : t.agent = .pCrsf) (hi : t.env.inline.crsf = false) (hb : s.byteInCrsf = b :: bs) :
    step s = exec (.crsfFeed b) { s.beginTurn t ts with byteInCrsf := bs } := by
  simp only [step, ht, stepAgent, ha, stepCrsfByte, State.beginTurn_byteInCrsf, hb, State.beginTurn_env, hi, Bool.false_eq_true, if_false]

/-- The step of the byte producer of SBUS with a byte presented. -/
theorem step_sbusByte {s : State} {t : Turn} {ts : List Turn} {b : Byte} {bs : List Byte} (ht : s.turns = t :: ts)
    (ha : t.agent = .pSbus) (hi : t.env.inline.sbus = false) (hb : s.byteInSbus = b :: bs) :
    step s = exec (.sbusFeed b) { s.beginTurn t ts with byteInSbus := bs } := by
  simp only [step, ht, stepAgent, ha, stepSbusByte, State.beginTurn_byteInSbus, hb, State.beginTurn_env, hi, Bool.false_eq_true, if_false]

/-- The step of the byte producer of IBUS with a byte presented. -/
theorem step_ibusByte {s : State} {t : Turn} {ts : List Turn} {b : Byte} {bs : List Byte} (ht : s.turns = t :: ts)
    (ha : t.agent = .pIbus) (hi : t.env.inline.ibus = false) (hb : s.byteInIbus = b :: bs) :
    step s = exec (.ibusFeed b) { s.beginTurn t ts with byteInIbus := bs } := by
  simp only [step, ht, stepAgent, ha, stepIbusByte, State.beginTurn_byteInIbus, hb, State.beginTurn_env, hi, Bool.false_eq_true, if_false]

end Sys2Proof.Machine
end

