-- ==== Sys2Proof/Laws/Validators.lean ====
section
/-! SUPPORT. The CRC-8 and the 16-bit sum (spec/44_validators.md R261 to R266): the CRC step loses nothing, the sum is the sum of
its byte pairs. -/

namespace Sys2Proof.Machine

/-- The register before one bit of the CRC-8. -/
def crc8Unshift (y : Byte) : Byte := if y.getLsbD 0 then ((y ^^^ crc8Poly) >>> 1) ||| 0x80 else y >>> 1

theorem crc8Unshift_shift : ∀ x : Byte, crc8Unshift (crc8Shift x) = x := by decide

theorem crc8Shifts_injective (n : Nat) {x y : Byte} (h : crc8Shifts n x = crc8Shifts n y) : x = y := by
  induction n generalizing x y with
  | zero => exact h
  | succ n ih =>
    have := congrArg crc8Unshift (ih h)
    rwa [crc8Unshift_shift, crc8Unshift_shift] at this

/-- Two registers that differ still differ after a byte is absorbed (R261). -/
theorem crc8Step_left_injective {x y b : Byte} (h : crc8Step x b = crc8Step y b) : x = y :=
  (BitVec.xor_left_inj b).mp (crc8Shifts_injective 8 h)

/-- Two bytes that differ leave different registers. -/
theorem crc8Step_right_injective {ci x y : Byte} (h : crc8Step ci x = crc8Step ci y) : x = y :=
  (BitVec.xor_right_inj ci).mp (crc8Shifts_injective 8 h)

theorem crc8_append (seed : Byte) (a b : List Byte) : crc8 seed (a ++ b) = crc8 (crc8 seed a) b := List.foldl_append

/-- LE16 by its bytes (spec/00_scope.md R11). -/
theorem le16_toNat (lo hi : Byte) : (le16 lo hi).toNat = lo.toNat + 2 ^ 8 * hi.toNat := by
  rw [le16, toNat_append]
  omega

/-- One byte pair of the sum (R265). -/
theorem sum16_cons (seed : Half) (lo hi : Byte) (rest : List Byte) :
    sum16 seed (lo :: hi :: rest) = sum16 (seed + le16 lo hi) rest := rfl

end Sys2Proof.Machine
end

