-- ==== Sys2Proof/Tests/Slice0.lean ====
section
/-! SUPPORT. This model's own tests. Expected values come from spec/95_test_vectors.md (the vector is named) or are computed by hand
from the rule named; words are written out from the formats of spec/30_encoding.md R101 to R110. The last part shows, for each
obligation with hypotheses, a state and operands that meet them. -/

namespace Sys2Proof.Tests

open Sys2Proof Sys2Proof.Machine

/-! ## Well-formedness (R108, R109) -/

/-- Address A of 95_test_vectors.md. -/
def addrA : Addr := ⟨0x24, 0x0A, 0xC4, 0x00, 0x00, 0x01⟩

/-- Address B of 95_test_vectors.md. -/
def addrB : Addr := ⟨0x24, 0x0A, 0xC4, 0x00, 0x00, 0x02⟩

theorem test_wellFormed_rx_longest : (Instr.ptRx addrA (List.replicate 65535 0)).wellFormed = true := by
  simp only [Instr.wellFormed, maxDataLen, List.length_replicate]
  decide
theorem test_wellFormed_rx_too_long : (Instr.ptRx addrA (List.replicate 65536 0)).wellFormed = false := by
  simp only [Instr.wellFormed, maxDataLen, List.length_replicate]
  decide
theorem test_wellFormed_send_longest : (Instr.ptSend .pri false (List.replicate 65535 0)).wellFormed = true := by
  simp only [Instr.wellFormed, maxDataLen, List.length_replicate]
  decide
theorem test_wellFormed_send_too_long : (Instr.ptSend .pri false (List.replicate 65536 0)).wellFormed = false := by
  simp only [Instr.wellFormed, maxDataLen, List.length_replicate]
  decide

/-! ## Decoding: a word of every command -/

/-- ENC-1 -/
theorem test_decode_crsfFeed : decodeTableWord 32 0x100000C8 = some (.crsfFeed 0xC8) := by decide
/-- P1 -/
theorem test_decode_crsfUnpack : decodeTableWord 32 0x11000000 = some .crsfUnpack := by decide
/-- P1 -/
theorem test_decode_crsfChraw : decodeTableWord 32 0x12000005 = some (.crsfChraw 5) := by decide
/-- IF-6 -/
theorem test_decode_crsfChpwm : decodeTableWord 32 0x130000FF = some (.crsfChpwm 255) := by decide
/-- P1 -/
theorem test_decode_crsfStatus : decodeTableWord 32 0x14000003 = some (.crsfStatus 3) := by decide
/-- IF-9 -/
theorem test_decode_crsfTake : decodeTableWord 32 0x15000000 = some .crsfTake := by decide
/-- IF-12 -/
theorem test_decode_crsfWait : decodeTableWord 32 0x16000001 = some (.crsfWait .timed) := by decide
/-- P2 -/
theorem test_decode_sbusFeed : decodeTableWord 32 0x2000000F = some (.sbusFeed 0x0F) := by decide
/-- P2 -/
theorem test_decode_sbusUnpack : decodeTableWord 32 0x21000000 = some .sbusUnpack := by decide
/-- R102 -/
theorem test_decode_sbusChraw : decodeTableWord 32 0x22000011 = some (.sbusChraw 17) := by decide
/-- IF-5 -/
theorem test_decode_sbusChpwm : decodeTableWord 32 0x23000010 = some (.sbusChpwm 16) := by decide
/-- IF-14 -/
theorem test_decode_sbusStatus : decodeTableWord 32 0x24000002 = some (.sbusStatus 2) := by decide
/-- IF-8 -/
theorem test_decode_sbusTake : decodeTableWord 32 0x25000000 = some .sbusTake := by decide
/-- R102 -/
theorem test_decode_sbusWait : decodeTableWord 32 0x26000000 = some (.sbusWait .inf) := by decide
/-- P4 -/
theorem test_decode_ibusFeed : decodeTableWord 32 0x30000040 = some (.ibusFeed 0x40) := by decide
/-- P4 -/
theorem test_decode_ibusUnpack : decodeTableWord 32 0x31000000 = some .ibusUnpack := by decide
/-- P4 -/
theorem test_decode_ibusChraw : decodeTableWord 32 0x32000012 = some (.ibusChraw 18) := by decide
/-- P4 -/
theorem test_decode_ibusChpwm : decodeTableWord 32 0x33000005 = some (.ibusChpwm 5) := by decide
/-- P4 -/
theorem test_decode_ibusStatus : decodeTableWord 32 0x34000003 = some (.ibusStatus 3) := by decide
/-- P4 -/
theorem test_decode_ibusTake : decodeTableWord 32 0x35000000 = some .ibusTake := by decide
/-- R102 -/
theorem test_decode_ibusWait : decodeTableWord 32 0x36000001 = some (.ibusWait .timed) := by decide
/-- P4 -/
theorem test_decode_ibusGetmodel : decodeTableWord 32 0x37000000 = some .ibusGetmodel := by decide
/-- VAL-2 -/
theorem test_decode_valCrc8 : decodeTableWord 32 0x4000D301 = some (.valCrc8 0xD3 0x01) := by decide
/-- VAL-20: data FF FF DB 05 -/
theorem test_decode_valSum16 : decodeTableWord 64 0x05DBFFFF41000000 = some (.valSum16 0x05DBFFFF) := by decide
/-- P5: data DB 0F 49 40 -/
theorem test_decode_fpcDecode : decodeTableWord 64 0x40490FDB50000000 = some (.fpcDecode 0x40490FDB) := by decide
/-- P5: data 21 19 00 00 -/
theorem test_decode_fpcEncode : decodeTableWord 64 0x0000192151000000 = some (.fpcEncode 6433) := by decide
/-- PT-1: data 08 00 -/
theorem test_decode_ptSetupPrimary : decodeTableWord 48 0x000860000001 = some (.ptSetupPrimary false 1 8) := by decide
/-- PT-11: data 24 0A C4 00 00 01 -/
theorem test_decode_ptSetPrimaryAddr : decodeTableWord 80 0x010000C40A2461000000 = some (.ptSetPrimaryAddr addrA) := by decide
/-- PT-9: data 04 00, then B -/
theorem test_decode_ptAddSecondary : decodeTableWord 96 0x020000C40A24000462020001 = some (.ptAddSecondary false 1 4 (some addrB)) := by decide
/-- R107: A = 0, E = 1, CAP = 0x0100 -/
theorem test_decode_ptAddSecondary_no_address : decodeTableWord 48 0x010062010007 = some (.ptAddSecondary true 7 256 none) := by decide
/-- PT-4: data 24 0A C4 00 00 01 01 02 03 -/
theorem test_decode_ptRx : decodeTableWord 104 0x030201010000C40A2463000003 = some (.ptRx addrA [1, 2, 3]) := by decide
/-- PT-12 -/
theorem test_decode_ptSend : decodeTableWord 40 0x5564400001 = some (.ptSend .pri false [0x55]) := by decide
/-- R108 with PT-14's operands: P = BCAST in C[23:22], Z = C[21], L = 4 (log 18) -/
theorem test_decode_ptSend_null : decodeTableWord 64 0x4433221164200004 = some (.ptSend .bcast true [0x11, 0x22, 0x33, 0x44]) := by decide
/-- The word PT-14 prints has P = 1 in C[23:22] (log 18) -/
theorem test_decode_ptSend_null_primary : decodeTableWord 64 0x64600004 = some (.ptSend .pri true [0, 0, 0, 0]) := by decide
/-- R105: the defaults N = 20, DLY = 50 -/
theorem test_decode_ptBcastId : decodeTableWord 32 0x65003214 = some (.ptBcastId 20 50) := by decide
/-- PT-20 -/
theorem test_decode_ptGetMyId : decodeTableWord 32 0x66000000 = some .ptGetMyId := by decide
/-- PT-19 -/
theorem test_decode_ptGetPrimaryId : decodeTableWord 32 0x67000000 = some .ptGetPrimaryId := by decide
/-- PT-16 -/
theorem test_decode_ptTake : decodeTableWord 32 0x68000100 = some (.ptTake .pri) := by decide
/-- PT-17b -/
theorem test_decode_ptWait : decodeTableWord 32 0x69000201 = some (.ptWait .sec .timed) := by decide
/-- P3 -/
theorem test_decode_ptReadbuf : decodeTableWord 32 0x6A000107 = some (.ptReadbuf .pri 7) := by decide
/-- R104 -/
theorem test_decode_ptGetlen : decodeTableWord 32 0x6B000300 = some (.ptGetlen .rsv) := by decide
/-- P3 -/
theorem test_decode_ptRxcount : decodeTableWord 32 0x6C000000 = some .ptRxcount := by decide
/-- P3 -/
theorem test_decode_ptTickdelta : decodeTableWord 32 0x6D000000 = some .ptTickdelta := by decide

/-! ## Refused encodings (R111): ENC-2 to ENC-10 -/

/-- Why `decode` refuses a word followed by `data`, and what it leaves on the port. -/
def refusal (c0 c1 c2 c3 : Byte) (data : List Byte) : Option (Illegal × List Byte) :=
  match decode (c0 :: c1 :: c2 :: c3 :: data) with
  | .illegal e rest => some (e, rest)
  | .instr _ _ => none
  | .incomplete => none

/-- ENC-2 -/
theorem test_refuse_opcode_00 : refusal 0x00 0x00 0x00 0x00 [0xAA] = some (.unknownOpcode, [0xAA]) := by decide
/-- ENC-3 -/
theorem test_refuse_opcode_F0 : refusal 0x00 0x00 0x00 0xF0 [] = some (.unknownOpcode, []) := by decide
/-- ENC-3 -/
theorem test_refuse_opcode_FF : refusal 0x00 0x00 0x00 0xFF [] = some (.unknownOpcode, []) := by decide
/-- ENC-4 -/
theorem test_refuse_opcode_17 : refusal 0x00 0x00 0x00 0x17 [] = some (.unknownOpcode, []) := by decide
/-- ENC-4 -/
theorem test_refuse_opcode_38 : refusal 0x00 0x00 0x00 0x38 [] = some (.unknownOpcode, []) := by decide
/-- ENC-4 -/
theorem test_refuse_opcode_42 : refusal 0x00 0x00 0x00 0x42 [] = some (.unknownOpcode, []) := by decide
/-- ENC-4 -/
theorem test_refuse_opcode_52 : refusal 0x00 0x00 0x00 0x52 [] = some (.unknownOpcode, []) := by decide
/-- ENC-4 -/
theorem test_refuse_opcode_6E : refusal 0x00 0x00 0x00 0x6E [] = some (.unknownOpcode, []) := by decide
/-- ENC-5 -/
theorem test_refuse_format_n : refusal 0x01 0x00 0x00 0x11 [] = some (.mustBeZero, []) := by decide
/-- ENC-6 -/
theorem test_refuse_format_b : refusal 0x00 0x01 0x00 0x10 [] = some (.mustBeZero, []) := by decide
/-- ENC-7 -/
theorem test_refuse_format_p : refusal 0x00 0x04 0x00 0x6A [] = some (.mustBeZero, []) := by decide
/-- ENC-8 -/
theorem test_refuse_format_r : refusal 0x01 0x00 0x04 0x62 [0x08, 0x00, 0xAA] = some (.mustBeZero, [0xAA]) := by decide
/-- ENC-9 -/
theorem test_refuse_format_s : refusal 0x01 0x00 0x01 0x64 [0x55, 0xAA] = some (.mustBeZero, [0xAA]) := by decide
/-- ENC-10 -/
theorem test_refuse_format_x : refusal 0x00 0x00 0x01 0x63 [0x01, 0x02, 0x03, 0x04, 0x05, 0x06, 0xAA] = some (.mustBeZero, [0xAA]) := by decide
/-- VAL-12 -/
theorem test_refuse_format_c : refusal 0x16 0x00 0x01 0x40 [] = some (.mustBeZero, []) := by decide
/-- IF-13 -/
theorem test_refuse_wait_mode : refusal 0x02 0x00 0x00 0x16 [] = some (.waitMode, []) := by decide
/-- PT-16b -/
theorem test_refuse_take_x : refusal 0x01 0x01 0x00 0x68 [] = some (.operandX, []) := by decide
/-- PT-3 -/
theorem test_refuse_setup_primary_address : refusal 0x01 0x00 0x02 0x60 [0x08, 0x00] = some (.addressFlag, []) := by decide
/-- ENC-12: 8 data bytes follow, so 7 are not a whole command. -/
theorem test_incomplete : decode [0x01, 0x00, 0x02, 0x62, 4, 0, 0x24, 0x0A, 0xC4, 0, 0] = .incomplete := by decide


/-! ## Meanings: states built field by field -/

/-- What ENV supplies at time and tick `t`: the radio accepts, no timed wait has expired, every unit is fed by its own producer. -/
def envAt (t : Word) : Env := { timeUs := t, tick := t, radioOk := true, timedOut := false, inline := Inline.none }

/-- A buffer that begins with these bytes. -/
def cells (bytes : List Byte) : Memory := Memory.writeBytes [] 0 bytes

/-- A decoder collecting a frame since `start`. -/
def collecting (work : List Byte) (start : Word) : Decoder :=
  { Decoder.reset with work := cells work, idx := BitVec.ofNat 8 work.length, start := start }

/-- A decoder that has published this frame, unconsumed and not taken. -/
def published (frame : List Byte) : Decoder :=
  { Decoder.reset with
    work := cells frame, stable := cells frame, slen := BitVec.ofNat 8 frame.length, empty := false, ready := true, rxcount := 1 }

/-- The CRSF unit in this condition, at time `t`. -/
def onCrsf (d : Decoder) (target : Byte) (t : Word) : State :=
  { State.reset with crsf := { CrsfUnit.reset with dec := d, target := target }, env := envAt t }

/-- The SBUS unit in this condition, at time `t`. -/
def onSbus (d : Decoder) (t : Word) : State :=
  { State.reset with sbus := { SbusUnit.reset with dec := d }, env := envAt t }

/-- An IBUS unit that latched IA6B for a frame of this size (R232). -/
def ia6bUnit (d : Decoder) (size : Byte) : IbusUnit :=
  { IbusUnit.reset with dec := d, model := .ia6b, offset := 2, size := size, seed := 0xFFFF, soffset := 2, sseed := 0xFFFF }

/-- That IBUS unit, at time `t`. -/
def onIbus (d : Decoder) (size : Byte) (t : Word) : State := { State.reset with ibus := ia6bUnit d size, env := envAt t }

/-- Reset with the primary slot set up with capacity 8 (PT-1), at tick `t`. -/
def primarySetUp (t : Word) : State :=
  { State.reset with pt := { Transceiver.reset with pri := { Slot.resetOther with reg := true, chan := 1, cap := 8 } }, env := envAt t }

/-- The state of PT-4: the primary bound to A, with the frame 01 02 03 received at tick 500. -/
def primaryBound (t : Word) : State :=
  { State.reset with
    pt := { Transceiver.reset with
      pri := { Slot.resetOther with reg := true, aset := true, addr := addrA, chan := 1, cap := 8, len := 3, buf := cells [1, 2, 3] }
      rxcount := 1, lastTick := 500, tickDelta := 500, readyPri := true }
    env := envAt t }

/-- PT-1 with B registered as the secondary, capacity 4 (PT-9's start). -/
def secondarySetUp (t : Word) : State :=
  { State.reset with
    pt := { Transceiver.reset with
      pri := { Slot.resetOther with reg := true, chan := 1, cap := 8 }
      sec := { Slot.resetOther with reg := true, aset := true, addr := addrB, chan := 1, cap := 4 } }
    env := envAt t }

/-- A field of the state a meaning or a step ends in. -/
def after {α : Type} (r : Result) (f : State → α) : Option α :=
  match r with
  | .next s => some (f s)
  | .fault _ => none
  | .refused _ => none

/-- The result returned, where the command succeeded and ended. -/
def value (s : State) : Option (Word × List Byte) :=
  match s.reply with
  | some r => if r.status = .ok then some (r.value, r.bytes) else none
  | none => none

/-- The status returned. -/
def status (s : State) : Option Status := s.reply.map (·.status)

/-- The command of a table word, executed by the very next step. -/
def runWord (s : State) (nbits w : Nat) : Result := step (s.withFetchWord nbits w)

/-! ## CRSF -/

/-- The RC-channels frame of CRSF-14. -/
def frameCrsf14 : List Byte :=
  [0xC8, 0x18, 0x16, 0xAC, 0x00, 0xDF, 0xC4, 0x01, 0xF0, 0xFF, 0x00, 0x00, 0xF0, 0x7F, 0x00, 0x04, 0x20, 0x00, 0x01, 0x08,
   0x40, 0x00, 0x02, 0x10, 0x80, 0x67]

/-- The short frame of V-L1-1. -/
def frameShort : List Byte := [0xC8, 0x04, 0x16, 0x01, 0x02, 0xCD]

/-- CRSF-6: the third FEED times the frame out and restarts it; SR is then 0x001A0101. -/
theorem test_crsfFeed_timeout :
    after (runWord (onCrsf (collecting [0xC8, 0x18] 0) 0x1A 2000) 32 0x100000C8)
      (fun s => (value s, s.crsf.status, s.crsf.dec.dropped, s.crsf.dec.start)) = some (some (0, []), 0x001A0101, 1, 2000) := by
  decide

/-- CRSF-1: the last byte of the frame publishes it; SR is then 0x00060002. -/
theorem test_crsfFeed_publishes :
    after (exec (.crsfFeed 0xCD) (onCrsf (collecting [0xC8, 0x04, 0x16, 0x01, 0x02] 0) 6 50))
      (fun s => (value s, s.crsf.status, s.crsf.dec.slen, s.crsf.dec.rxcount, s.crsf.dec.stable.bytes 0 6)) =
        some (some (1, []), 0x00060002, 6, 1, frameShort) := by
  decide

/-- CRSF-14: the sixteen packed values. -/
theorem test_crsfUnpack_channels :
    after (exec .crsfUnpack (onCrsf (published frameCrsf14) 26 300)) (fun s => (value s, s.crsf.ch.toList, s.crsf.status)) =
      some (some (1, []), [172, 992, 1811, 0, 2047, 1, 1024, 1023, 1024, 1024, 1024, 1024, 1024, 1024, 1024, 1024],
        0x001A0003) := by
  decide +kernel

/-- CRSF-13's case on CRSF-14's frame: bit 0 of byte 3 flipped, result 0 and no channel changes. -/
theorem test_crsfUnpack_bad_crc :
    after (exec .crsfUnpack (onCrsf (published (frameCrsf14.set 3 0xAD)) 26 300))
      (fun s => (value s, s.crsf.ch.toList, s.crsf.dec.empty)) = some (some (0, []), List.replicate 16 0, true) := by
  decide +kernel

/-- P1: CHRAW 5 of channels that hold their index times 100. -/
theorem test_crsfChraw :
    after (exec (.crsfChraw 5) { State.reset with crsf := { CrsfUnit.reset with ch := Vector.ofFn (fun i => BitVec.ofNat 16 (100 * i.val)) } })
      value = some (some (500, [])) := by
  decide

/-- IF-6 -/
theorem test_crsfChraw_out_of_range : after (runWord State.reset 32 0x12000010) value = some (some (1000, [])) := by decide

/-- IF-6 -/
theorem test_crsfChpwm_out_of_range : after (runWord State.reset 32 0x130000FF) value = some (some (1000, [])) := by decide

/-- IF-7 -/
theorem test_crsfChpwm_open :
    exec (.crsfChpwm 0) State.reset = .next { State.reset with reply := some ⟨.ok, (Config.crsfPwm 0).setWidth 32, []⟩ } := rfl

/-- IF-1 -/
theorem test_crsfStatus_reset : after (runWord State.reset 32 0x14000000) value = some (some (1, [])) := by decide

/-- IF-4 -/
theorem test_crsfStatus_no_register : after (runWord State.reset 32 0x14000002) status = some (some .illegal) := by decide

/-- IF-9 -/
theorem test_crsfTake :
    after (runWord (onCrsf (published frameShort) 6 60) 32 0x15000000) (fun s => (value s, s.crsf.dec.ready, s.crsf.dec.empty)) =
      some (some (1, []), false, false) := by
  decide

/-- IF-11: with no frame, WAIT inf blocks. -/
theorem test_crsfWait_blocks :
    after (exec (.crsfWait .inf) State.reset) (fun s => (s.reply, s.waiting)) = some (none, some ⟨.crsf, .inf⟩) := by
  decide

/-- IF-12: a timed WAIT whose timeout has expired returns 0. -/
theorem test_crsfWait_timed_out :
    after (exec (.crsfWait .timed) { State.reset with env := { envAt 0 with timedOut := true } })
      (fun s => (value s, s.waiting)) = some (some (0, []), none) := by
  decide

/-! ## SBUS -/

/-- Frame s1 of 95_test_vectors.md. -/
def frameS1 : List Byte :=
  [0x0F, 0xC0, 0x00, 0x1F, 0xC0, 0x01, 0xF0, 0x7F, 0xF0, 0x81, 0x0F, 0x7C, 0xE0, 0x03, 0x1F, 0xF8, 0xC0, 0x07, 0x3E, 0xF0,
   0x81, 0x0F, 0x7C, 0x01, 0x00]

/-- The channels of s1 (SBUS-1). -/
def channelsS1 : Vector Half 18 :=
  #v[192, 992, 1792, 0, 2047, 992, 992, 992, 992, 992, 992, 992, 992, 992, 992, 992, 1, 0]

/-- SBUS-1: the 25th byte publishes; SR is then 0x00190002. -/
theorem test_sbusFeed_publishes :
    after (exec (.sbusFeed 0x00) (onSbus (collecting (frameS1.take 24) 0) 240))
      (fun s => (value s, s.sbus.status, s.sbus.dec.stable.bytes 0 25, s.sbus.dec.slen)) =
        some (some (1, []), 0x00190002, frameS1, 25) := by
  decide

/-- SBUS-5: a bad end byte counts an error and publishes nothing. -/
theorem test_sbusFeed_bad_end :
    after (exec (.sbusFeed 0x04) (onSbus (collecting (frameS1.take 24) 0) 240))
      (fun s => (value s, s.sbus.errors, s.sbus.dec.idx, s.sbus.dec.empty, s.sbus.dec.rxcount)) =
        some (some (0, []), 1, 0, true, 0) := by
  decide

/-- SBUS-1 -/
theorem test_sbusUnpack :
    after (exec .sbusUnpack (onSbus (published frameS1) 300)) (fun s => (value s, s.sbus.ch.toList, s.sbus.dec.empty)) =
      some (some (1, []), channelsS1.toList, true) := by
  decide

/-- SBUS-4: flag bits 2 and 3 are ignored. -/
theorem test_sbusUnpack_flags :
    after (exec .sbusUnpack (onSbus (published ((frameS1.take 23) ++ [0x0C, 0x00])) 300))
      (fun s => (s.sbus.ch[16], s.sbus.ch[17])) = some (0, 0) := by
  decide

/-- The SBUS unit with the channels of s1. -/
def sbusDecoded : State := { State.reset with sbus := { SbusUnit.reset with ch := channelsS1 } }

/-- P2's channel 4. -/
theorem test_sbusChraw : after (exec (.sbusChraw 4) sbusDecoded) value = some (some (2047, [])) := by decide

/-- SBUS-2: channels 0, 1, 2, 3, 4 and, 16, 17, 18. -/
theorem test_sbusChpwm :
    ([0, 1, 2, 3, 4, 5, 16, 17, 18].map (fun i => after (exec (.sbusChpwm i) sbusDecoded) value)) =
      [1000, 1500, 2000, 880, 2159, 1500, 2000, 1000, 1000].map (fun v => some (some (v, []))) := by
  decide

/-- SBUS-8: floor division. -/
theorem test_sbusPwm_floor :
    ([1, 2, 7, 8, 172, 992, 1023, 1024, 1811].map sbusPwmOf) = [880, 881, 884, 885, 987, 1500, 1519, 1520, 2011] := by decide

/-- IF-2 -/
theorem test_sbusStatus_reset : after (runWord State.reset 32 0x24000000) value = some (some (0x00190001, [])) := by decide

/-- IF-4 -/
theorem test_sbusStatus_no_register : after (runWord State.reset 32 0x24000004) status = some (some .illegal) := by decide

/-- IF-8 -/
theorem test_sbusTake_clear : after (runWord State.reset 32 0x25000000) value = some (some (0, [])) := by decide

/-- R344: a set signal is taken at once. -/
theorem test_sbusWait_ready :
    after (exec (.sbusWait .inf) (onSbus (published frameS1) 300)) (fun s => (value s, s.sbus.dec.ready, s.waiting)) =
      some (some (1, []), false, none) := by
  decide

/-! ## IBUS -/

/-- Frame ex of 95_test_vectors.md (V-L1-3). -/
def frameEx : List Byte :=
  [0x20, 0x40, 0xDB, 0x05, 0xDC, 0x05, 0x54, 0x05, 0xDC, 0x05, 0xE8, 0x03, 0xD0, 0x07, 0xD2, 0x05, 0xE8, 0x03, 0xDC, 0x05,
   0xDC, 0x05, 0xDC, 0x05, 0xDC, 0x05, 0xDC, 0x05, 0xDC, 0x05, 0x80, 0x4F]

/-- The frame of IBUS-4. -/
def frameIbus4 : List Byte :=
  [0x20, 0x40, 0xDC, 0xC5, 0xDC, 0xB5, 0xDC, 0xA5, 0xDC, 0x35, 0xDC, 0x25, 0xDC, 0x15, 0xDC, 0xF5, 0xDC, 0xF5, 0xDC, 0xF5,
   0xDC, 0x15, 0xDC, 0x05, 0xDC, 0x05, 0xDC, 0x05, 0xDC, 0x05, 0x07, 0xA2]

/-- IBUS-1: the 32nd byte publishes; SR is then 0x01200002. -/
theorem test_ibusFeed_publishes :
    after (exec (.ibusFeed 0x4F) (onIbus (collecting (frameEx.take 31) 0) 32 310))
      (fun s => (value s, s.ibus.status, s.ibus.dec.stable.bytes 0 32, s.ibus.soffset, s.ibus.sseed)) =
        some (some (1, []), 0x01200002, frameEx, 2, 0xFFFF) := by
  decide

/-- IBUS-9b: the timeout, then 0x55 starts an IA6 frame; SR is then 0x021F0101. -/
theorem test_ibusFeed_restarts_ia6 :
    after (runWord (onIbus (collecting [0x20, 0x40] 0) 32 6001) 32 0x30000055)
      (fun s => (value s, s.ibus.status, s.ibus.dec.dropped)) = some (some (0, []), 0x021F0101, 1) := by
  decide

/-- IBUS-4: base channels and the four extension channels. -/
theorem test_ibusUnpack_extension :
    after (exec .ibusUnpack (onIbus (published frameIbus4) 32 330)) (fun s => (value s, s.ibus.ch.toList)) =
      some (some (1, []), List.replicate 14 1500 ++ [2748, 291, 4095, 1]) := by
  decide

/-- IBUS-7: a wrong checksum byte. -/
theorem test_ibusUnpack_bad_sum :
    after (exec .ibusUnpack (onIbus (published (frameEx.set 31 0xCF)) 32 330)) (fun s => (value s, s.ibus.ch.toList)) =
      some (some (0, []), List.replicate 18 0) := by
  decide

/-- The IBUS unit with V-L1-3's first channels. -/
def ibusDecoded : State :=
  { State.reset with
    ibus := { IbusUnit.reset with ch := #v[1499, 1500, 1364, 1500, 1000, 2000, 1490, 1000, 1500, 1500, 1500, 1500, 1500, 1500, 0, 0, 0, 0] } }

/-- P4 -/
theorem test_ibusChraw :
    after (exec (.ibusChraw 0) ibusDecoded) value = some (some (1499, [])) ∧
      after (exec (.ibusChraw 18) ibusDecoded) value = some (some (1000, [])) := by
  decide

/-- P4 -/
theorem test_ibusChpwm : after (exec (.ibusChpwm 5) ibusDecoded) value = some (some (2000, [])) := by decide

/-- P4: SR of a published IA6B frame. -/
theorem test_ibusStatus :
    after (exec (.ibusStatus 0) (onIbus (published frameEx) 32 330)) value = some (some (0x01200002, [])) := by decide

/-- IF-4 -/
theorem test_ibusStatus_no_register : after (runWord State.reset 32 0x34000002) status = some (some .illegal) := by decide

/-- P4: TAKE returns 1 and leaves the frame unconsumed. -/
theorem test_ibusTake :
    after (exec .ibusTake (onIbus (published frameEx) 32 330)) (fun s => (value s, s.ibus.dec.ready, s.ibus.dec.empty)) =
      some (some (1, []), false, false) := by
  decide

/-- R354: a timed WAIT that has not expired blocks. -/
theorem test_ibusWait_blocks :
    after (exec (.ibusWait .timed) State.reset) (fun s => (s.reply, s.waiting)) = some (none, some ⟨.ibus, .timed⟩) := by
  decide

/-- IBUS-1 and IBUS-11 -/
theorem test_ibusGetmodel :
    after (exec .ibusGetmodel (onIbus (published frameEx) 32 330)) value = some (some (0x201, [])) ∧
      after (exec .ibusGetmodel State.reset) value = some (some (0, [])) := by
  decide

/-! ## Validators and codec -/

/-- VAL-1, VAL-2, VAL-3, VAL-5, VAL-8, VAL-9, VAL-10 -/
theorem test_valCrc8 :
    ([(0x00, 0x16), (0xD3, 0x01), (0x5F, 0x02), (0x00, 0x80), (0xD5, 0x00), (0x12, 0x34), (0xAB, 0xCD)].map
      (fun p => crc8Step p.1 p.2)) = [0xD3, 0x5F, 0xCD, 0xEF, 0x0B, 0x25, 0xB8] := by decide

/-- VAL-2 through the step -/
theorem test_valCrc8_word : after (runWord State.reset 32 0x4000D301) value = some (some (0x5F, [])) := by decide

/-- VAL-20 to VAL-24 -/
theorem test_valSum16 :
    ([0x05DBFFFF, 0xFFFF0000, 0x0001FFFF, 0x00001234, 0x80008000].map sum16Word) = [0x05DA, 0xFFFF, 0x0000, 0x1234, 0x0000] := by decide

/-- VAL-20 through the step -/
theorem test_valSum16_word : after (runWord State.reset 64 0x05DBFFFF41000000) value = some (some (0x05DA, [])) := by decide

/-- FPC-1 to FPC-9b -/
theorem test_fpcDecode :
    ([0x3F800000, 0xBF800000, 0x3F000000, 0x00000000, 0x80000000, 0x00000001, 0x007FFFFF, 0x00800000, 0x3DCCCCCD, 0xBDCCCCCD,
      0x3A000000, 0x39FFFFFF, 0x3A800000, 0x33800000, 0x40490FDB, 0xC0490FDB, 0x3F7FFFFF, 0x44FFFE00, 0x44FFFFFF, 0xC4FFFFFF,
      0x45000000, 0x45FFFFFF].map fpcDecodeValue) =
      [2048, -2048, 1024, 0, 0, 0, 0, 0, 204, -204, 1, 0, 2, 0, 6433, -6433, 2047, 4194176, 4194303, -4194303, 4194304, 16777215] := by
  decide

/-- FPC-10 -/
theorem test_fpcDecode_open :
    exec (.fpcDecode 0x46000000) State.reset =
      .next { State.reset with reply := some ⟨.ok, Config.fpcBig 0x46000000, []⟩ } := rfl

/-- FPC-11 to FPC-17b; by hand from R156, 2^26 − 3 goes down to 2^26 − 4 and 2^26 − 2, a tie, up to 2^26. -/
theorem test_fpcEncode :
    ([2048, -2048, 0, 1, -1, 3, 1024, 6433, 65520, 16777215, -16777215, 16777216, 16777217, 16777219, 2147483647,
      -2147483648, 67108861, 67108862].map fpcEncodeValue) =
      [0x3F800000, 0xBF800000, 0x00000000, 0x3A000000, 0xBA000000, 0x3AC00000, 0x3F000000, 0x40490800, 0x41FFF000, 0x45FFFFFF,
       0xC5FFFFFF, 0x46000000, 0x46000000, 0x46000002, 0x49800000, 0xC9800000, 0x46FFFFFF, 0x47000000] := by
  decide

/-- P5 through the step -/
theorem test_fpcEncode_word : after (runWord State.reset 64 0x0000192151000000) value = some (some (0x40490800, [])) := by decide

/-! ## PeerTransceiver -/

/-- PT-1 -/
theorem test_ptSetupPrimary :
    after (runWord State.reset 48 0x000860000001)
      (fun s => (value s, s.pt.pri.reg, s.pt.pri.cap, s.pt.pri.len, s.pt.pri.aset, s.pt.pri.chan)) =
        some (some (0, []), true, 8, 0, false, 1) := by
  decide

/-- PT-2 -/
theorem test_ptSetupPrimary_capacity :
    after (runWord State.reset 48 0x010160000001) (fun s => (status s, s.pt.pri.reg)) = some (some .arg, false) := by decide

/-- PT-11 -/
theorem test_ptSetPrimaryAddr :
    after (runWord (primarySetUp 0) 80 0x010000C40A2461000000) (fun s => (value s, s.pt.pri.aset, s.pt.pri.addr)) =
      some (some (0, []), true, addrA) := by
  decide

/-- PT-11b, PT-11c, PT-11d -/
theorem test_ptSetPrimaryAddr_refused :
    after (exec (.ptSetPrimaryAddr addrB) (primaryBound 0)) status = some (some .fail) ∧
      after (exec (.ptSetPrimaryAddr ⟨0xFF, 0xFF, 0xFF, 0xFF, 0xFF, 0xFF⟩) State.reset) status = some (some .arg) ∧
      after (exec (.ptSetPrimaryAddr ⟨0, 0, 0, 0, 0, 0⟩) State.reset) status = some (some .arg) := by
  decide

/-- PT-9's setup -/
theorem test_ptAddSecondary :
    after (runWord (primarySetUp 0) 96 0x020000C40A24000462020001)
      (fun s => (value s, s.pt.sec.reg, s.pt.sec.aset, s.pt.sec.addr, s.pt.sec.cap)) =
        some (some (0, []), true, true, addrB, 4) := by
  decide

/-- R287: the bound primary's address is refused. -/
theorem test_ptAddSecondary_primary_address :
    after (exec (.ptAddSecondary false 1 4 (some addrA)) (primaryBound 0)) (fun s => (status s, s.pt.sec.reg)) =
      some (some .arg, false) := by
  decide

/-- PT-4: the frame binds the primary and is delivered in the same step. -/
theorem test_ptRx_binds :
    after (runWord (primarySetUp 500) 104 0x030201010000C40A2463000003) (fun s => (value s, s.pt.pri.addr, s.pt.pri.len, s.pt.pri.buf.bytes 0 3,
      s.pt.tickDelta)) =
      some (some (1, []), addrA, 3, [1, 2, 3], 500) := by
  decide

/-- PT-9: truncated to CAP, the primary unchanged. -/
theorem test_ptRx_secondary :
    after (exec (.ptRx addrB [9, 8, 7, 6, 5]) (secondarySetUp 600))
      (fun s => (value s, s.pt.sec.len, s.pt.sec.buf.bytes 0 5, s.pt.rxcount)) =
        some (some (2, []), 4, [9, 8, 7, 6, 0], 0) := by
  decide

/-- PT-12, PT-14, PT-14c, PT-14d -/
theorem test_ptSend_refused :
    after (runWord State.reset 40 0x5564400001) (fun s => (status s, s.radioTx)) = some (some .unbound, []) ∧
      after (exec (.ptSend .bcast true [1, 2, 3, 4]) State.reset) status = some (some .arg) ∧
      after (exec (.ptSend .rsv false [0x55]) State.reset) status = some (some .arg) ∧
      after (runWord State.reset 40 0x5564000000) status = some (some .arg) := by
  decide

/-- PT-13: RADIO_MAX_LEN is at least 1 (log 7), so a one-byte string is never too long. -/
theorem test_ptSend_broadcast :
    exec (.ptSend .bcast false [0x55]) (primaryBound 0) =
      .next { primaryBound 0 with radioTx := [⟨⟨0xFF, 0xFF, 0xFF, 0xFF, 0xFF, 0xFF⟩, [0x55]⟩], reply := some ⟨.ok, 0, []⟩ } := by
  have h : ¬ Config.radioMaxLen < [(0x55 : Byte)].length := by simp [Config.radioMaxLen]
  simp only [exec, execPtSend, ptSend, if_neg h]
  rfl

/-- PT-21: nothing to send. PT-22: the start step leaves two sends. -/
theorem test_ptBcastId_starts :
    after (runWord State.reset 32 0x65003200) (fun s => (value s, s.pt.bidActive, s.radioTx)) = some (some (0, []), false, []) ∧
      after (runWord State.reset 32 0x65003202) (fun s => (s.reply, s.pt.bidActive, s.pt.bidLeft)) = some (none, true, 2) := by
  decide

/-- PT-22's last send -/
theorem test_ptBcastId_last_send :
    after (step { primaryBound 0 with
        turns := [⟨.consumer, envAt 0⟩], pt := { Transceiver.reset with bidActive := true, bidLeft := 1 } })
      (fun s => (value s, s.pt.bidActive, s.radioTx.length)) = some (some (0, []), false, 1) := by
  decide

/-- PT-20 -/
theorem test_ptGetMyId :
    exec .ptGetMyId State.reset = .next { State.reset with reply := some ⟨.ok, 0, addrBytes Config.myAddr⟩ } := rfl

/-- PT-19 and PT-19b -/
theorem test_ptGetPrimaryId :
    after (runWord (primaryBound 0) 32 0x67000000) value = some (some (1, [0x24, 0x0A, 0xC4, 0x00, 0x00, 0x01])) ∧
      after (runWord State.reset 32 0x67000000) value = some (some (0, [0, 0, 0, 0, 0, 0])) := by
  decide

/-- PT-16 -/
theorem test_ptTake :
    after (runWord (primaryBound 0) 32 0x68000100) (fun s => (value s, s.pt.readyPri)) = some (some (1, []), false) := by decide

/-- R282 -/
theorem test_ptTake_no_buffer : after (exec (.ptTake .bcast) (primaryBound 0)) status = some (some .arg) := by decide

/-- PT-17 -/
theorem test_ptWait :
    after (runWord (primaryBound 0) 32 0x69000100) (fun s => (value s, s.pt.readyPri)) = some (some (1, []), false) := by decide

/-- PT-17a -/
theorem test_ptWait_blocks :
    after (runWord (primaryBound 0) 32 0x69000200) (fun s => (s.reply, s.waiting)) = some (none, some ⟨.peer .sec, .inf⟩) := by
  decide

/-- PT-15 and PT-15c -/
theorem test_ptReadbuf :
    after (runWord (primaryBound 0) 32 0x6A000102) value = some (some (3, [])) ∧
      after (runWord (primaryBound 0) 32 0x6A000105) value = some (some (0, [])) := by
  decide

/-- PT-15b and PT-15d -/
theorem test_ptReadbuf_refused :
    after (runWord (primaryBound 0) 32 0x6A000108) status = some (some .arg) ∧
      after (runWord (primaryBound 0) 32 0x6A000000) status = some (some .arg) := by
  decide

/-- PT-18 -/
theorem test_ptGetlen : after (runWord (primaryBound 0) 32 0x6B000100) value = some (some (3, [])) := by decide

/-- P3's counters, on PT-4's state -/
theorem test_ptRxcount : after (runWord (primaryBound 0) 32 0x6C000000) value = some (some (1, [])) := by decide

/-- P3's counters, on PT-4's state -/
theorem test_ptTickdelta : after (runWord (primaryBound 0) 32 0x6D000000) value = some (some (500, [])) := by decide

/-! ## The step -/

/-- ENC-9: the refused word's data byte is consumed and nothing else changes. -/
theorem test_step_illegal :
    after (runWord (primaryBound 0) 40 0x5564010001) (fun s => (status s, s.cmd, s.pt)) = some (some .illegal, [], (primaryBound 0).pt) := by
  rfl

/-- With no turn the block stands still (log 3). -/
theorem test_step_no_turn : step State.reset = .next State.reset := rfl

/-- A producer's turn takes one byte. -/
theorem test_step_producer :
    after (step { State.reset with turns := [⟨.pCrsf, envAt 7⟩], byteInCrsf := [0xC8, 0x18] })
      (fun s => (value s, s.byteInCrsf, s.crsf.dec.idx, s.crsf.dec.start, s.turns)) = some (some (0, []), [0x18], 1, 7, []) := by
  decide

/-- The consumer, and it alone, feeds the CRSF unit at this step. -/
def inlineCrsf (t : Word) : Env := { envAt t with inline := { Inline.none with crsf := true } }

/-- R406: a FEED word on CMD waits through the consumer's turn and is executed at its producer's. -/
theorem test_step_feed_word_is_the_producers :
    after (step { State.reset with turns := [⟨.consumer, envAt 7⟩], cmd := [0xC8, 0, 0, 0x10] })
        (fun s => (s.cmd, s.crsf.dec.idx)) = some ([0xC8, 0, 0, 0x10], 0) ∧
      after (step { State.reset with turns := [⟨.pCrsf, envAt 7⟩], cmd := [0xC8, 0, 0, 0x10] })
        (fun s => (s.cmd, s.crsf.dec.idx)) = some ([], 1) := by
  decide

/-- R406, D40: while the consumer feeds the unit inline, its FEED word is executed and P_CRSF's byte waits. -/
theorem test_step_inline_feed :
    after (step { State.reset with turns := [⟨.consumer, inlineCrsf 7⟩], cmd := [0xC8, 0, 0, 0x10] })
        (fun s => (s.cmd, s.crsf.dec.idx)) = some ([], 1) ∧
      after (step { State.reset with turns := [⟨.pCrsf, inlineCrsf 7⟩], byteInCrsf := [0xC8], cmd := [0xC8, 0, 0, 0x10] })
        (fun s => (s.byteInCrsf, s.cmd, s.crsf.dec.idx)) = some ([0xC8], [0xC8, 0, 0, 0x10], 0) := by
  decide

/-- R406: a PT.RX word on CMD waits through the consumer's turn and is executed at P_RADIO's. -/
theorem test_step_rx_word_is_the_radios :
    after (step { primarySetUp 0 with
        turns := [⟨.consumer, envAt 7⟩], cmd := [0, 0, 0, 0x63, 0x24, 0x0A, 0xC4, 0, 0, 1] }) (fun s => s.pt.pri.aset) = some false ∧
      after (step { primarySetUp 0 with
        turns := [⟨.pRadio, envAt 7⟩], cmd := [0, 0, 0, 0x63, 0x24, 0x0A, 0xC4, 0, 0, 1] }) (fun s => s.pt.pri.aset) = some true := by
  decide

/-- R105: the word of PT.BCAST_ID with the source's defaults. -/
theorem test_bind_defaults : encode (.ptBcastId bindRepeats bindDelayMs) = [0x14, 0x32, 0x00, 0x65] := by decide

/-- R9: 12, 14 and 14 auxiliary channels. -/
theorem test_auxChannels :
    auxChannels crsfChCount = 12 ∧ auxChannels sbusChCount = 14 ∧ auxChannels ibusChCount = 14 := by decide

/-- R8: TIME_US and TICK have TIME_BITS and TICK_BITS bits. -/
theorem test_sample_widths : Word = BitVec timeBits ∧ Word = BitVec tickBits := ⟨rfl, rfl⟩

/-- R8: the block has PT_SLOTS slots, BCAST = 0, PRI = 1, SEC = 2, RSV = 3. -/
theorem test_ptSlots : [PeerId.bcast, .pri, .sec, .rsv].length = ptSlots ∧ ∀ p : PeerId, p ∈ [PeerId.bcast, .pri, .sec, .rsv] :=
  ⟨rfl, fun p => by cases p <;> decide⟩

/-! ## Witnesses: states and operands that meet the hypotheses of the obligations, clause by clause -/

/-- The consumer's turn, the command bytes given standing on CMD. -/
def consumerTurn (cmd : List Byte) : State := { primaryBound 0 with turns := [⟨.consumer, envAt 9⟩], cmd := cmd }

/-- A producer's or the radio's turn with something presented on every port. -/
def presented (a : Agent) : State :=
  { primaryBound 0 with
    turns := [⟨a, envAt 9⟩], byteInCrsf := [0xC8], byteInSbus := [0x0F], byteInIbus := [0x20], radioRx := [⟨addrA, [0x0A]⟩] }

/-- A state in which every part holds something: a published CRSF and IBUS frame, a bound primary, a frame presented. -/
def busy : State :=
  { presented .pRadio with
    crsf := { CrsfUnit.reset with dec := published frameShort, target := 6 }
    sbus := { SbusUnit.reset with dec := published frameS1 }
    ibus := ia6bUnit (published frameEx) 32 }

theorem test_witness_DecodeOfEncode :
    (Instr.ptRx addrA [1, 2, 3]).wellFormed = true ∧ (Instr.ptSend .rsv true []).wellFormed = true := by decide

theorem test_witness_EncodeOfDecode :
    decode [0x03, 0x00, 0x00, 0x63, 0x24, 0x0A, 0xC4, 0, 0, 1, 1, 2, 3, 0xFF] = .instr (.ptRx addrA [1, 2, 3]) [0xFF] := by decide

/-- The widest data string of a fixed format spelled, and a refused word whose data is just present. -/
theorem test_witness_OpcodeTableDecides :
    (dataBytesAfter (le32 0x01 0x00 0x02 0x62) ≤ [4, 0, 0x24, 0x0A, 0xC4, 0, 0, (2 : Byte)].length ∧
      spellsCommand (le32 0x01 0x00 0x02 0x62)) ∧
    (dataBytesAfter (le32 0x01 0x00 0x01 0x64) ≤ [(0x55 : Byte)].length ∧ ¬ spellsCommand (le32 0x01 0x00 0x01 0x64)) := by
  refine ⟨⟨by decide, ⟨0x62000000, 0xFFFCFF00⟩, ?_, by decide⟩, by decide, ?_⟩
  · simp [opcodeRows]
  · simp only [spellsCommand, opcodeRows, List.mem_cons, List.not_mem_nil, or_false, exists_eq_or_imp, exists_eq_left]
    decide

/-- The consumer's command at its own turn, and at another agent's. -/
theorem test_witness_StepRunsDecodedCommand :
    (∀ a ∈ [Agent.consumer, .pCrsf],
      ({ consumerTurn [0x00, 0x00, 0x00, 0x6C] with turns := [⟨a, envAt 9⟩] } : State).turns = ⟨a, envAt 9⟩ :: []) ∧
      (consumerTurn [0x00, 0x00, 0x00, 0x6C]).pt.bidActive = false ∧ (consumerTurn [0x00, 0x00, 0x00, 0x6C]).waiting = none ∧
      (consumerTurn [0x00, 0x00, 0x00, 0x6C]).byteInCrsf = [] ∧
      decode (consumerTurn [0x00, 0x00, 0x00, 0x6C]).cmd = .instr .ptRxcount [] ∧ Instr.ptRxcount.wellFormed = true := by
  decide

/-- A FEED word at its producer's turn and, with the consumer as the unit's producer, at the consumer's; a PT.RX word. -/
theorem test_witness_StepRunsDecodedCommand_producers :
    decode (consumerTurn [0xC8, 0, 0, 0x10]).cmd = .instr (.crsfFeed 0xC8) [] ∧
      Agent.pCrsf = (if (envAt 9).inline.crsf then .consumer else .pCrsf) ∧
      Agent.consumer = (if (inlineCrsf 9).inline.crsf then .consumer else .pCrsf) ∧
      decode (consumerTurn [0, 0, 0, 0x63, 0x24, 0x0A, 0xC4, 0, 0, 1]).cmd = .instr (.ptRx addrA []) [] ∧
      (consumerTurn []).radioRx = [] ∧ (consumerTurn []).byteInCrsf = [] := by
  decide

theorem test_witness_StepRunsPresentedEvent :
    ((presented .pCrsf).turns = ⟨.pCrsf, envAt 9⟩ :: [] ∧ (envAt 9).inline.crsf = false ∧ (presented .pCrsf).byteInCrsf = 0xC8 :: []) ∧
    ((presented .pSbus).turns = ⟨.pSbus, envAt 9⟩ :: [] ∧ (envAt 9).inline.sbus = false ∧ (presented .pSbus).byteInSbus = 0x0F :: []) ∧
    ((presented .pIbus).turns = ⟨.pIbus, envAt 9⟩ :: [] ∧ (envAt 9).inline.ibus = false ∧ (presented .pIbus).byteInIbus = 0x20 :: []) ∧
    ((presented .pRadio).turns = ⟨.pRadio, envAt 9⟩ :: [] ∧ (presented .pRadio).radioRx = ⟨addrA, [0x0A]⟩ :: []) ∧
    (({ presented .pCrsf with turns := [⟨.pCrsf, inlineCrsf 9⟩] } : State).turns = ⟨.pCrsf, inlineCrsf 9⟩ :: [] ∧
      (inlineCrsf 9).inline.crsf = true) := by
  decide

/-- The inline clauses of the two other units. -/
theorem test_witness_StepRunsPresentedEvent_inline :
    ∀ (u : Agent × Inline), u ∈ [(.pSbus, ⟨false, true, false⟩), (.pIbus, ⟨false, false, true⟩)] →
      ({ presented u.1 with turns := [⟨u.1, { envAt 9 with inline := u.2 }⟩] } : State).turns
        = ⟨u.1, { envAt 9 with inline := u.2 }⟩ :: [] ∧
      (u.1 = .pSbus → u.2.sbus = true) ∧ (u.1 = .pIbus → u.2.ibus = true) := by
  decide

theorem test_witness_StepRunsPresentedEvent_wait :
    ({ consumerTurn [] with waiting := some ⟨.peer .pri, .inf⟩ } : State).turns = ⟨.consumer, envAt 9⟩ :: [] ∧
      ({ consumerTurn [] with waiting := some ⟨.peer .pri, .inf⟩ } : State).pt.bidActive = false ∧
      ({ consumerTurn [] with waiting := some ⟨.peer .pri, .inf⟩ } : State).waiting = some ⟨.peer .pri, .inf⟩ := by
  decide

theorem test_witness_IllegalWordIsRefused :
    (consumerTurn [0x01, 0x00, 0x01, 0x64, 0x55]).turns = ⟨.consumer, envAt 9⟩ :: [] ∧
      (consumerTurn [0x01, 0x00, 0x01, 0x64, 0x55]).pt.bidActive = false ∧
      (consumerTurn [0x01, 0x00, 0x01, 0x64, 0x55]).waiting = none ∧
      (consumerTurn [0x01, 0x00, 0x01, 0x64, 0x55]).cmd = 0x01 :: 0x00 :: 0x01 :: 0x64 :: [0x55] ∧
      ¬ spellsCommand (le32 0x01 0x00 0x01 0x64) ∧ dataBytesAfter (le32 0x01 0x00 0x01 0x64) ≤ [(0x55 : Byte)].length :=
  ⟨rfl, rfl, rfl, rfl, test_witness_OpcodeTableDecides.2.2, test_witness_OpcodeTableDecides.2.1⟩

theorem test_witness_inv_crsf : CrsfInv busy.crsf := by
  refine ⟨⟨?_, ?_, ?_, ?_, ?_⟩, ?_, ?_, ?_, ?_, ?_⟩ <;> decide

theorem test_witness_inv_sbus : SbusInv busy.sbus := by
  refine ⟨⟨?_, ?_, ?_, ?_, ?_⟩, ?_, ?_, ?_⟩ <;> decide

theorem test_witness_inv_ibus : IbusInv busy.ibus := by
  refine ⟨⟨?_, ?_, ?_, ?_, ?_⟩, ?_, ?_, ?_, ?_⟩ <;> decide

theorem test_witness_inv_pt : TransceiverInv busy.pt := by
  refine ⟨rfl, rfl, ⟨?_, ?_, ?_, ?_⟩, ⟨?_, ?_, ?_, ?_⟩, ⟨?_, ?_⟩, ⟨?_, ?_⟩, ?_, ⟨?_, ?_⟩, ?_⟩ <;> decide

/-- A state with a bound primary and three published frames meets the invariant, and its next step delivers a frame. -/
theorem test_witness_InvariantKept : Inv busy ∧ ∃ s', step busy = .next s' :=
  ⟨⟨test_witness_inv_crsf, test_witness_inv_sbus, test_witness_inv_ibus, test_witness_inv_pt, nofun, nofun⟩, _, rfl⟩

theorem test_witness_BlockNeverStops : Inv busy := test_witness_InvariantKept.1

theorem test_witness_PrimaryAddressImmutable : (∃ s', step busy = .next s') ∧ busy.pt.pri.aset = true := ⟨⟨_, rfl⟩, rfl⟩

theorem test_witness_UnitsDoNotWriteEachOther :
    (∃ s', exec .crsfTake busy = .next s') ∧ isSbus .crsfTake = false ∧ isIbus .crsfTake = false ∧
      (∃ s', exec .ptTickdelta busy = .next s') ∧ isCrsf .ptTickdelta = false ∧
      (isCrsf .crsfTake || isSbus .crsfTake || isIbus .crsfTake || isPure .crsfTake) = true :=
  ⟨⟨_, rfl⟩, rfl, rfl, ⟨_, rfl⟩, rfl, rfl⟩

theorem test_witness_UnitsDoNotReadEachOther :
    ((∃ s', exec .crsfTake busy = .next s') ∧ isCrsf .crsfTake = true) ∧
      ((∃ s', exec .sbusTake busy = .next s') ∧ isSbus .sbusTake = true) ∧
      ((∃ s', exec .ibusTake busy = .next s') ∧ isIbus .ibusTake = true) :=
  ⟨⟨⟨_, rfl⟩, rfl⟩, ⟨⟨_, rfl⟩, rfl⟩, ⟨_, rfl⟩, rfl⟩

/-- Each signal is set before its TAKE and clear after it. -/
theorem test_witness_ReadyClearedOnlyByTakeOrWait :
    (busy.crsf.dec.ready = true ∧ after (exec .crsfTake busy) (·.crsf.dec.ready) = some false) ∧
      (busy.sbus.dec.ready = true ∧ after (exec .sbusTake busy) (·.sbus.dec.ready) = some false) ∧
      (busy.ibus.dec.ready = true ∧ after (exec .ibusTake busy) (·.ibus.dec.ready) = some false) ∧
      (busy.pt.readyPri = true ∧ after (exec (.ptTake .pri) busy) (·.pt.readyPri) = some false) ∧
      (({ busy with pt := { busy.pt with readySec := true } } : State).pt.readySec = true ∧
        after (exec (.ptTake .sec) { busy with pt := { busy.pt with readySec := true } }) (·.pt.readySec) = some false) := by
  decide

/-- The last byte of a frame changes the stable buffer of its unit. -/
theorem test_witness_StableChangesOnlyAtPublish :
    after (exec (.crsfFeed 0xCD) (onCrsf (collecting [0xC8, 0x04, 0x16, 0x01, 0x02] 0) 6 50)) (fun s => s.crsf.dec.stable == [])
        = some false ∧
      after (exec (.sbusFeed 0x00) (onSbus (collecting (frameS1.take 24) 0) 240)) (fun s => s.sbus.dec.stable == [])
        = some false ∧
      after (exec (.ibusFeed 0x4F) (onIbus (collecting (frameEx.take 31) 0) 32 310)) (fun s => s.ibus.dec.stable == [])
        = some false := by
  decide

/-- A radio step that changes the primary's buffer, and one that changes the secondary's. -/
theorem test_witness_PeerBufferChangeSetsReady :
    after (step busy) (fun s => s.pt.pri.buf == busy.pt.pri.buf) = some false ∧
      after (step { secondarySetUp 0 with turns := [⟨.pRadio, envAt 9⟩], radioRx := [⟨addrB, [7]⟩] }) (fun s => s.pt.sec.buf == [])
        = some false := by
  decide

/-- The channel indices on both sides of each bound. -/
theorem test_witness_ChannelRawReadout_ChannelPwmReadout :
    (15 : Byte).toNat < 16 ∧ 16 ≤ (16 : Byte).toNat ∧ (17 : Byte).toNat < 18 ∧ 16 ≤ (17 : Byte).toNat ∧ 18 ≤ (18 : Byte).toNat := by
  decide

theorem test_witness_StatusReadout : (2 : Byte) = 2 ∧ 4 ≤ (4 : Byte).toNat ∧ 4 ≤ (255 : Byte).toNat := by decide

theorem test_witness_UnitTakeAndWaitTakeSignal :
    busy.crsf.dec.ready = true ∧ busy.sbus.dec.ready = true ∧ busy.ibus.dec.ready = true := by decide

/-- Each of the five signals clear, with a wait of each mode. -/
theorem test_witness_WaitOnClearSignal :
    (∀ t ∈ [WaitTarget.crsf, .sbus, .ibus, .peer .pri, .peer .sec], State.reset.readyOf t = false) ∧
      pendingWaitOk ⟨.peer .pri, .timed⟩ ∧ pendingWaitOk ⟨.peer .sec, .inf⟩ ∧ pendingWaitOk ⟨.crsf, .timed⟩ ∧
      State.reset.env.timedOut = false ∧
      (∃ s : State, s.readyOf (.peer .pri) = false ∧ s.env.timedOut = true) := by
  refine ⟨by decide, ?_, ?_, nofun, rfl, { State.reset with env := { envAt 0 with timedOut := true } }, rfl, rfl⟩
  · intro p h; cases h; rfl
  · intro p h; cases h; rfl

/-- The first and the last byte the CRSF check covers, the first and the last bit. -/
theorem test_witness_CrsfSingleBitFlipDetected :
    (cells frameCrsf14).wf = true ∧ crsfFrameOk (cells frameCrsf14) 26 = true ∧ 2 ≤ 2 ∧ 2 < 26 ∧ 2 ≤ 25 ∧ 25 < 26 ∧ 0 < 8 ∧ 7 < 8 := by
  decide +kernel

/-- The first and the last slot byte, and the two checksum bytes. -/
theorem test_witness_IbusSingleBitFlipDetected :
    (cells frameEx).wf = true ∧ ibusFrameOk (cells frameEx) 32 2 0xFFFF = true ∧ 7 < 8 ∧ (2 ≤ 2 ∧ 2 < 2 + 28) ∧
      (2 ≤ 29 ∧ 29 < 2 + 28) ∧ 30 = 32 - 2 ∧ 31 = 32 - 1 := by
  decide +kernel

/-- Exponents 0, 1, 139 and 140. -/
theorem test_witness_FpcDecodeTruncates :
    (0x807FFFFF#32).toNat / 2 ^ 23 % 2 ^ 8 = 0 ∧ (0x00800000#32).toNat / 2 ^ 23 % 2 ^ 8 = 1 ∧
      (0x45FFFFFF#32).toNat / 2 ^ 23 % 2 ^ 8 = 139 ∧ 140 ≤ (0x46000000#32).toNat / 2 ^ 23 % 2 ^ 8 := by
  decide

/-- Both ends of the round trip's range, 2^24 with either sign, and a value FPC.ENCODE does not map to +0.0. -/
theorem test_witness_FpcRoundTrip_FpcEncodeRoundsToNearest :
    (16777215#32).toInt.natAbs < 2 ^ 24 ∧ (-16777215#32).toInt.natAbs < 2 ^ 24 ∧ (16777216#32).toInt.natAbs = 2 ^ 24 ∧
      (-16777216#32).toInt.natAbs = 2 ^ 24 ∧ (1#32) ≠ 0 := by
  decide

/-- A result that is the least of its exponent and lies above |q|: 2^26 for q = 2^26 − 2, where four times the distance is 2^e. -/
theorem test_witness_FpcEncodeRoundsToNearest_edge :
    (fpcEncodeValue 67108862).toNat % 2 ^ 23 = 0 ∧ (fpcEncodeValue 67108862).toNat / 2 ^ 23 % 2 ^ 8 = 142 ∧
      (67108862#32).toInt.natAbs * 2 ^ 139 < 2 ^ 23 * 2 ^ 142 ∧
      4 * (2 ^ 23 * 2 ^ 142 - (67108862#32).toInt.natAbs * 2 ^ 139) = 2 ^ 142 := by
  decide

theorem test_witness_CrsfFeedAtIndexZero :
    State.reset.crsf.dec.idx = 0 ∧ ((0xEE : Byte) = 0xC8 ∨ (0xEE : Byte) = 0xEE) ∧ State.reset.crsf.dec.work.wf = true ∧
      (0xC9 : Byte) ≠ 0xC8 ∧ (0xC9 : Byte) ≠ 0xEE := by
  decide

/-- One microsecond past each budget. -/
theorem test_witness_FeedAfterTimeoutRestarts :
    ((onCrsf (collecting [0xC8] 0) 0 1751).crsf.dec.idx ≠ 0 ∧
      1750 < ((onCrsf (collecting [0xC8] 0) 0 1751).env.timeUs - (onCrsf (collecting [0xC8] 0) 0 1751).crsf.dec.start).toNat) ∧
    ((onSbus (collecting [0x0F] 0) 3501).sbus.dec.idx ≠ 0 ∧
      3500 < ((onSbus (collecting [0x0F] 0) 3501).env.timeUs - (onSbus (collecting [0x0F] 0) 3501).sbus.dec.start).toNat) ∧
    ((onIbus (collecting [0x20] 0) 32 3001).ibus.dec.idx ≠ 0 ∧
      3000 < ((onIbus (collecting [0x20] 0) 32 3001).env.timeUs - (onIbus (collecting [0x20] 0) 32 3001).ibus.dec.start).toNat) := by
  decide

/-- A FEED that counts a timeout, and one that does not. -/
theorem test_witness_DroppedCountsTimeoutsOnly :
    (∃ s', exec (.crsfFeed 0xC8) (onCrsf (collecting [0xC8] 0) 0 1751) = .next s' ∧ s'.crsf.dec.dropped = 1) ∧
      (∃ s', exec (.crsfFeed 0x18) (onCrsf (collecting [0xC8] 0) 0 1750) = .next s' ∧ s'.crsf.dec.dropped = 0) :=
  ⟨⟨_, rfl, rfl⟩, _, rfl, rfl⟩

/-- The budget's last microsecond; lengths 2, 62, 1 and 63. -/
theorem test_witness_CrsfFeedLengthByte :
    (onCrsf (collecting [0xC8] 0) 0 1750).crsf.dec.idx = 1 ∧
      ((onCrsf (collecting [0xC8] 0) 0 1750).env.timeUs - (onCrsf (collecting [0xC8] 0) 0 1750).crsf.dec.start).toNat ≤ 1750 ∧
      (onCrsf (collecting [0xC8] 0) 0 1750).crsf.dec.work.wf = true ∧
      (2 ≤ (2 : Byte).toNat ∧ (2 : Byte).toNat ≤ 62) ∧ (2 ≤ (62 : Byte).toNat ∧ (62 : Byte).toNat ≤ 62) ∧
      (1 : Byte).toNat < 2 ∧ 62 < (63 : Byte).toNat := by
  decide

/-- A byte in the middle of a frame, and the last byte of one. -/
theorem test_witness_CrsfFeedPayloadByte :
    (2 ≤ (onCrsf (collecting [0xC8, 0x04] 0) 6 1750).crsf.dec.idx.toNat ∧ (onCrsf (collecting [0xC8, 0x04] 0) 6 1750).crsf.dec.idx.toNat < 64 ∧
      (onCrsf (collecting [0xC8, 0x04] 0) 6 1750).crsf.dec.idx.toNat + 1 ≠ (onCrsf (collecting [0xC8, 0x04] 0) 6 1750).crsf.target.toNat) ∧
    ((onCrsf (collecting [0xC8, 4, 0x16, 1, 2] 0) 6 50).crsf.dec.idx.toNat + 1 = (onCrsf (collecting [0xC8, 4, 0x16, 1, 2] 0) 6 50).crsf.target.toNat ∧
      2 ≤ (onCrsf (collecting [0xC8, 4, 0x16, 1, 2] 0) 6 50).crsf.dec.idx.toNat ∧
      ((onCrsf (collecting [0xC8, 4, 0x16, 1, 2] 0) 6 50).env.timeUs - (onCrsf (collecting [0xC8, 4, 0x16, 1, 2] 0) 6 50).crsf.dec.start).toNat ≤ 1750 ∧
      (onCrsf (collecting [0xC8, 4, 0x16, 1, 2] 0) 6 50).crsf.dec.work.wf = true ∧
      (onCrsf (collecting [0xC8, 4, 0x16, 1, 2] 0) 6 50).crsf.dec.stable.wf = true) := by
  decide

/-- Four producer turns at the frame's start and the budget's last microsecond. -/
def crsfTurns : List Turn := ⟨.pCrsf, envAt 5⟩ :: List.replicate 3 ⟨.pCrsf, envAt 1755⟩

/-- The shortest frame, on a port with one more byte behind it. -/
theorem test_witness_CrsfFrameIsPublished :
    State.reset.crsf.dec.idx = 0 ∧ State.reset.crsf.dec.work.wf = true ∧ State.reset.crsf.dec.stable.wf = true ∧
      (2 ≤ (2 : Byte).toNat ∧ (2 : Byte).toNat ≤ 62) ∧ [(0x16 : Byte), 0xD3].length = (2 : Byte).toNat ∧
      ([0xEE, 2, 0x16, 0xD3, 0xFF] : List Byte) = 0xEE :: 2 :: [0x16, 0xD3] ++ [0xFF] ∧
      crsfTurns = ⟨.pCrsf, envAt 5⟩ :: List.replicate 3 ⟨.pCrsf, envAt 1755⟩ ++ [] ∧
      (List.replicate 3 (⟨.pCrsf, envAt 1755⟩ : Turn)).length = [(0x16 : Byte), 0xD3].length + 1 ∧
      (∀ t ∈ crsfTurns, t.agent = .pCrsf ∧ t.env.inline.crsf = false ∧ (t.env.timeUs - (envAt 5).timeUs).toNat ≤ 1750) := by
  decide

/-- CRSF-14's frame, unconsumed. -/
theorem test_witness_CrsfUnpackDecodesChannels :
    (onCrsf (published frameCrsf14) 26 0).crsf.dec.empty = false ∧ (onCrsf (published frameCrsf14) 26 0).crsf.dec.slen = 26 ∧
      (onCrsf (published frameCrsf14) 26 0).crsf.dec.stable.read 2 = 0x16 ∧
      crc8 0 ((onCrsf (published frameCrsf14) 26 0).crsf.dec.stable.bytes 2 23) =
        (onCrsf (published frameCrsf14) 26 0).crsf.dec.stable.read 25 := by
  decide +kernel

/-- An empty unit; a frame of another length; one of another type; one with a wrong CRC. -/
theorem test_witness_CrsfUnpackRejects :
    State.reset.crsf.dec.empty = true ∧
      ((published frameShort).empty = false ∧ (published frameShort).slen.toNat ≤ 64 ∧ (published frameShort).slen ≠ 26) ∧
      ((published (frameCrsf14.set 2 0x14)).slen.toNat ≤ 64 ∧ (published (frameCrsf14.set 2 0x14)).stable.read 2 ≠ 0x16) ∧
      crc8 0 ((published (frameCrsf14.set 3 0xAD)).stable.bytes 2 23) ≠ (published (frameCrsf14.set 3 0xAD)).stable.read 25 := by
  decide +kernel

/-- The sixteen values of CRSF-14. -/
def values14 : Fin 16 → BitVec 11 :=
  fun i => (#v[172, 992, 1811, 0, 2047, 1, 1024, 1023, 1024, 1024, 1024, 1024, 1024, 1024, 1024, 1024] : Vector (BitVec 11) 16)[i]

/-- CRSF-14's payload packs them, at the CRSF and at the SBUS place. -/
theorem test_witness_PackedChannelsRoundTrip :
    (cells frameCrsf14).bytes 3 22 = natBytes 22 (∑ i : Fin 16, (values14 i).toNat * 2 ^ (11 * i.val)) ∧
      (cells (frameCrsf14.drop 2)).bytes 1 22 = natBytes 22 (∑ i : Fin 16, (values14 i).toNat * 2 ^ (11 * i.val)) := by
  decide +kernel

theorem test_witness_SbusFeedAtIndexZero :
    State.reset.sbus.dec.idx = 0 ∧ State.reset.sbus.dec.work.wf = true ∧ (0x0E : Byte) ≠ 0x0F := by decide

/-- IDX 1 and 23 with bytes still to come, IDX 24 with a wrong and with the right end byte, at the budget's last microsecond. -/
theorem test_witness_SbusFeedDataByte :
    (∀ n ∈ [1, 23, 24], 1 ≤ (onSbus (collecting (frameS1.take n) 0) 3500).sbus.dec.idx.toNat ∧
      (onSbus (collecting (frameS1.take n) 0) 3500).sbus.dec.idx.toNat ≤ 24 ∧
      ((onSbus (collecting (frameS1.take n) 0) 3500).env.timeUs - (onSbus (collecting (frameS1.take n) 0) 3500).sbus.dec.start).toNat ≤ 3500 ∧
      (onSbus (collecting (frameS1.take n) 0) 3500).sbus.dec.work.wf = true ∧
      (onSbus (collecting (frameS1.take n) 0) 3500).sbus.dec.stable.wf = true) ∧
    (onSbus (collecting (frameS1.take 23) 0) 3500).sbus.dec.idx.toNat < 24 ∧
    (onSbus (collecting (frameS1.take 24) 0) 3500).sbus.dec.idx.toNat = 24 ∧ (0x04 : Byte) ≠ 0x00 := by
  decide

/-- Frame s1 over 25 turns, the last at the budget's last microsecond. -/
theorem test_witness_SbusFrameIsPublished :
    State.reset.sbus.dec.idx = 0 ∧ State.reset.sbus.dec.work.wf = true ∧ State.reset.sbus.dec.stable.wf = true ∧
      ((frameS1.drop 1).take 23).length = 23 ∧ frameS1 = (0x0F#8 :: (frameS1.drop 1).take 23) ++ (0x00#8 :: []) ∧
      (List.replicate 24 (⟨.pSbus, envAt 3505⟩ : Turn)).length = 24 ∧
      (∀ t ∈ (⟨.pSbus, envAt 5⟩ : Turn) :: List.replicate 24 ⟨.pSbus, envAt 3505⟩,
        t.agent = .pSbus ∧ t.env.inline.sbus = false ∧ (t.env.timeUs - (envAt 5).timeUs).toNat ≤ 3500) := by
  decide

theorem test_witness_SbusUnpackDecodesChannels :
    State.reset.sbus.dec.empty = true ∧ (onSbus (published frameS1) 0).sbus.dec.empty = false := by decide

theorem test_witness_IbusFeedDetectsModel :
    State.reset.ibus.dec.idx = 0 ∧ State.reset.ibus.dec.work.wf = true ∧ ((0x04 : Byte) = 0x20 ∨ (0x04 : Byte) = 0x04) ∧
      (0x54 : Byte) ≠ 0x20 ∧ (0x54 : Byte) ≠ 0x04 ∧ (0x54 : Byte) ≠ 0x55 := by
  decide

/-- A byte in the middle of a frame; the last byte of a telemetry frame; the last byte of a 32-byte frame. -/
theorem test_witness_IbusFeedDataByte :
    (∀ p ∈ [((1 : Nat), (32 : Byte)), (3, 4), (31, 32)],
      1 ≤ (onIbus (collecting (frameEx.take p.1) 0) p.2 3000).ibus.dec.idx.toNat ∧
      (onIbus (collecting (frameEx.take p.1) 0) p.2 3000).ibus.dec.idx.toNat < 32 ∧
      ((onIbus (collecting (frameEx.take p.1) 0) p.2 3000).env.timeUs - (onIbus (collecting (frameEx.take p.1) 0) p.2 3000).ibus.dec.start).toNat ≤ 3000 ∧
      (onIbus (collecting (frameEx.take p.1) 0) p.2 3000).ibus.dec.work.wf = true ∧
      (onIbus (collecting (frameEx.take p.1) 0) p.2 3000).ibus.dec.stable.wf = true) ∧
    (collecting (frameEx.take 1) 0).idx.toNat + 1 ≠ (32 : Byte).toNat ∧
    (collecting (frameEx.take 3) 0).idx.toNat + 1 = (4 : Byte).toNat ∧
    (collecting (frameEx.take 31) 0).idx.toNat + 1 = (32 : Byte).toNat ∧ (32 : Byte) ≠ 4 := by
  decide

/-- The IA6 frame of IBUS-3. -/
def frameIa6 : List Byte := 0x55 :: (List.replicate 14 [0xDC, 0x05]).flatten ++ [0x08, 0x52]

/-- Frame ex as an IA6B unit holds it, and IBUS-3's frame as an IA6 unit holds it. -/
theorem test_witness_IbusUnpackDecodesChannels :
    ((onIbus (published frameEx) 32 0).ibus.dec.empty = false ∧ (onIbus (published frameEx) 32 0).ibus.dec.slen = 32 ∧
      ((0xFFFF : Half).toNat + ∑ j : Fin 14, (((published frameEx).stable.read (2 + 2 * j.val)).toNat
        + 2 ^ 8 * ((published frameEx).stable.read (2 + 2 * j.val + 1)).toNat)) % 2 ^ 16
      = ((published frameEx).stable.read (32 - 2)).toNat + 2 ^ 8 * ((published frameEx).stable.read (32 - 1)).toNat) ∧
    ((published frameIa6).slen = 31 ∧
      ((0 : Half).toNat + ∑ j : Fin 14, (((published frameIa6).stable.read (1 + 2 * j.val)).toNat
        + 2 ^ 8 * ((published frameIa6).stable.read (1 + 2 * j.val + 1)).toNat)) % 2 ^ 16
      = ((published frameIa6).stable.read (31 - 2)).toNat + 2 ^ 8 * ((published frameIa6).stable.read (31 - 1)).toNat) := by
  decide +kernel

/-- An empty unit, and frame ex with a wrong checksum byte. -/
theorem test_witness_IbusUnpackRejects :
    State.reset.ibus.dec.empty = true ∧
      ((published (frameEx.set 31 0xCF)).empty = false ∧ (published (frameEx.set 31 0xCF)).slen = 32 ∧
      ((0xFFFF : Half).toNat + ∑ j : Fin 14, (((published (frameEx.set 31 0xCF)).stable.read (2 + 2 * j.val)).toNat
        + 2 ^ 8 * ((published (frameEx.set 31 0xCF)).stable.read (2 + 2 * j.val + 1)).toNat)) % 2 ^ 16
      ≠ ((published (frameEx.set 31 0xCF)).stable.read (32 - 2)).toNat
        + 2 ^ 8 * ((published (frameEx.set 31 0xCF)).stable.read (32 - 1)).toNat) := by
  decide +kernel

/-- Capacities 256 and 257. -/
theorem test_witness_PtSetupPrimaryRegisters : (256 : Half).toNat ≤ 256 ∧ 256 < (257 : Half).toNat := by decide

/-- A bound primary; the two forbidden addresses and the secondary's while unbound; an address that binds. -/
theorem test_witness_PtSetPrimaryAddrBindsOnce :
    (primaryBound 0).pt.pri.aset = true ∧ (secondarySetUp 0).pt.pri.aset = false ∧
      ((secondarySetUp 0).pt.sec.aset = true ∧ addrB = (secondarySetUp 0).pt.sec.addr) ∧
      addrA ≠ ⟨0xFF, 0xFF, 0xFF, 0xFF, 0xFF, 0xFF⟩ ∧ addrA ≠ ⟨0, 0, 0, 0, 0, 0⟩ ∧ addrA ≠ (secondarySetUp 0).pt.sec.addr := by
  decide

/-- An address other than the bound primary's, the primary's own, and a capacity out of range. -/
theorem test_witness_PtAddSecondaryReplacesSlot :
    ((256 : Half).toNat ≤ 256 ∧ addrB ≠ ⟨0xFF, 0xFF, 0xFF, 0xFF, 0xFF, 0xFF⟩ ∧ addrB ≠ ⟨0, 0, 0, 0, 0, 0⟩ ∧
      (primaryBound 0).pt.pri.aset = true ∧ addrB ≠ (primaryBound 0).pt.pri.addr) ∧
      addrA = (primaryBound 0).pt.pri.addr ∧ 256 < (257 : Half).toNat := by
  decide

/-- The bound primary's frame, and the frame that binds it. -/
theorem test_witness_PtRxDeliversToPrimary :
    (addrA ≠ ⟨0xFF, 0xFF, 0xFF, 0xFF, 0xFF, 0xFF⟩ ∧ (primaryBound 0).pt.pri.reg = true ∧ (primaryBound 0).pt.pri.aset = true ∧
      addrA = (primaryBound 0).pt.pri.addr ∧ SlotInv (primaryBound 0).pt.pri) ∧
    ((secondarySetUp 0).pt.pri.reg = true ∧ (secondarySetUp 0).pt.pri.aset = false ∧ addrA ≠ ⟨0, 0, 0, 0, 0, 0⟩ ∧
      addrA ≠ (secondarySetUp 0).pt.sec.addr ∧ SlotInv (secondarySetUp 0).pt.pri) := by
  refine ⟨⟨?_, ?_, ?_, ?_, ?_, ?_, ?_, ?_⟩, ?_, ?_, ?_, ?_, ?_, ?_, ?_, ?_⟩ <;> decide

theorem test_witness_PtRxDeliversToSecondary :
    addrB ≠ ⟨0xFF, 0xFF, 0xFF, 0xFF, 0xFF, 0xFF⟩ ∧ (secondarySetUp 0).pt.sec.reg = true ∧ (secondarySetUp 0).pt.sec.aset = true ∧
      addrB = (secondarySetUp 0).pt.sec.addr ∧
      ¬ ((secondarySetUp 0).pt.pri.reg = true ∧ (secondarySetUp 0).pt.pri.aset = true ∧ addrB = (secondarySetUp 0).pt.pri.addr) ∧
      SlotInv (secondarySetUp 0).pt.sec := by
  refine ⟨?_, ?_, ?_, ?_, ?_, ?_, ?_, ?_, ?_⟩ <;> decide

/-- PT-5: another sender once the primary is bound. -/
theorem test_witness_PtRxDiscardsForeign :
    ¬ ((primaryBound 0).pt.pri.reg = true ∧ (primaryBound 0).pt.pri.aset = true ∧ addrB = (primaryBound 0).pt.pri.addr) ∧
      ¬ ((primaryBound 0).pt.pri.reg = true ∧ (primaryBound 0).pt.pri.aset = false ∧ addrB ≠ ⟨0, 0, 0, 0, 0, 0⟩ ∧
        addrB ≠ (primaryBound 0).pt.sec.addr) ∧
      ¬ ((primaryBound 0).pt.sec.reg = true ∧ (primaryBound 0).pt.sec.aset = true ∧ addrB = (primaryBound 0).pt.sec.addr) := by
  decide

/-- A one-byte string: never longer than RADIO_MAX_LEN (log 7); one byte more than RADIO_MAX_LEN; bound and unbound peers; both
answers of the radio. -/
theorem test_witness_PtSendTransmits :
    [(0x55 : Byte)] ≠ [] ∧ [(0x55 : Byte)].length ≤ Config.radioMaxLen ∧
      Config.radioMaxLen < (List.replicate (Config.radioMaxLen + 1) (0 : Byte)).length ∧
      (primaryBound 0).pt.pri.aset = true ∧ (primaryBound 0).pt.sec.aset = false ∧ State.reset.pt.pri.aset = false ∧
      (secondarySetUp 0).pt.sec.aset = true ∧ (primaryBound 0).env.radioOk = true ∧ State.reset.env.radioOk = false := by
  refine ⟨by decide, ?_, by simp, by decide, by decide, by decide, by decide, by decide, by decide⟩
  simp [Config.radioMaxLen]

/-- An announcement with two sends left and the consumer's turns. -/
def announcing (left : Byte) (ok : Bool) (turns : Nat) : State :=
  { State.reset with
    pt := { Transceiver.reset with bidActive := true, bidLeft := left }
    turns := List.replicate turns ⟨.consumer, { envAt 3 with radioOk := ok }⟩ }

theorem test_witness_PtBcastIdStarts : (0 : Byte) = 0 ∧ (1 : Byte) ≠ 0 ∧ (255 : Byte) ≠ 0 := by decide

/-- One of two sends, and both. -/
theorem test_witness_PtBcastIdSends :
    (announcing 2 true 2).pt.bidActive = true ∧ (announcing 2 true 2).pt.bidLeft ≠ 0 ∧
      (∀ k ∈ [1, 2], List.replicate k (⟨.consumer, envAt 3⟩ : Turn) ≠ [] ∧
        (List.replicate k (⟨.consumer, envAt 3⟩ : Turn)).length ≤ (announcing 2 true 2).pt.bidLeft.toNat ∧
        (announcing 2 true 2).turns = List.replicate k ⟨.consumer, envAt 3⟩ ++ List.replicate (2 - k) ⟨.consumer, envAt 3⟩) ∧
      (envAt 3).radioOk = true := by
  decide

theorem test_witness_PtBcastIdAborts :
    (announcing 2 false 1).turns = ⟨.consumer, { envAt 3 with radioOk := false }⟩ :: [] ∧ (announcing 2 false 1).pt.bidActive = true ∧
      ({ envAt 3 with radioOk := false } : Env).radioOk = false := by
  decide

theorem test_witness_PtTakeAndWaitTakeSignal :
    busy.pt.readyPri = true ∧ ({ busy with pt := { busy.pt with readySec := true } } : State).pt.readySec = true := by decide

/-- The last index below CAP and the first not below it. -/
theorem test_witness_PtBufferReadout :
    (7 : Byte).toNat < ((primaryBound 0).pt.slot .pri).cap.toNat ∧ ((primaryBound 0).pt.slot .pri).cap.toNat ≤ (8 : Byte).toNat := by
  decide

end Sys2Proof.Tests
end

section
/-! The commands of CMD (spec/60_exceptions.md R404 to R406): which agent executes the command at the head of CMD, and what the
turn of any other agent does. -/

namespace Sys2Proof.Machine

/-- What an agent does with a command at the head of CMD: execute it, if R406 names that agent as its issuer, and else leave it. -/
theorem stepCommand_instr {a : Agent} {s : State} {i : Instr} {rest : List Byte} (hd : decode s.cmd = .instr i rest) :
    stepCommand a s = if issuer s.env.inline i = a then exec i { s with cmd := rest } else .next s := by
  simp only [stepCommand, hd]

/-- An agent that has nothing else to do turns to CMD: a producer with nothing presented on its own port, or the consumer with no
announcement in progress and no blocked WAIT. -/
theorem stepAgent_eq_stepCommand {a : Agent} {s : State}
    (hconsumer : a = .consumer → s.pt.bidActive = false ∧ s.waiting = none)
    (hcrsf : a = .pCrsf → s.byteInCrsf = []) (hsbus : a = .pSbus → s.byteInSbus = [])
    (hibus : a = .pIbus → s.byteInIbus = []) (hradio : a = .pRadio → s.radioRx = []) :
    stepAgent a s = stepCommand a s := by
  cases a with
  | pCrsf => simp only [stepAgent, stepCrsfByte, hcrsf rfl]
  | pSbus => simp only [stepAgent, stepSbusByte, hsbus rfl]
  | pIbus => simp only [stepAgent, stepIbusByte, hibus rfl]
  | pRadio => simp only [stepAgent, stepRadioFrame, hradio rfl]
  | consumer =>
    obtain ⟨hbid, hwait⟩ := hconsumer rfl
    simp only [stepAgent, stepConsumer, hbid, hwait, Bool.false_eq_true, if_false]

/-- A step is the act of the agent that has the next turn, in the state the turn begins with. -/
theorem step_of_turn {s : State} {t : Turn} {ts : List Turn} (ht : s.turns = t :: ts) :
    step s = stepAgent t.agent (s.beginTurn t ts) := by
  simp only [step, ht]

/-- Settles O5: an agent with nothing else to do turns to CMD, and the agent the statement names is the command's `issuer`. -/
theorem stepRunsDecodedCommand : Obligations.StepRunsDecodedCommand := by
  intro s a e ts i rest ht hd _ hconsumer hcrsf hsbus hibus hradio
  have hstep : step s = if issuer e.inline i = a then exec i { s.beginTurn ⟨a, e⟩ ts with cmd := rest }
      else .next (s.beginTurn ⟨a, e⟩ ts) := by
    calc step s = stepAgent a (s.beginTurn ⟨a, e⟩ ts) := step_of_turn ht
      _ = stepCommand a (s.beginTurn ⟨a, e⟩ ts) := stepAgent_eq_stepCommand hconsumer hcrsf hsbus hibus hradio
      _ = _ := stepCommand_instr hd
  refine ⟨fun ha => ?issuersTurn, fun ha => ?othersTurn⟩
  case issuersTurn =>
    have hissuer : issuer e.inline i = a := by cases i <;> exact ha.symm
    rw [hstep, if_pos hissuer]
    rfl
  case othersTurn =>
    have hissuer : issuer e.inline i ≠ a := by cases i <;> exact ha.symm
    rw [hstep, if_neg hissuer]
    rfl

end Sys2Proof.Machine
end

section
/-! The invariant of a decoder unit's registers (spec/10_state.md R32, R34, spec/20_memory.md R80): what each operation the units
share keeps of it. -/

namespace Sys2Proof.Machine

variable {size : Nat} {d : Decoder}

theorem DecoderInv.reset (h : 0 < size) : DecoderInv size Decoder.reset :=
  ⟨h, rfl, rfl, rfl, rfl⟩

/-- The decoder's invariant reads IDX, WORK and STABLE alone. -/
theorem DecoderInv.of_same_buffers {d' : Decoder} (h : DecoderInv size d) (hidx : d'.idx.toNat < size)
    (hwork : d'.work = d.work) (hstable : d'.stable = d.stable) : DecoderInv size d' :=
  ⟨hidx, hwork ▸ h.workWf, hwork ▸ h.workBelow, hstable ▸ h.stableWf, hstable ▸ h.stableBelow⟩

/-- IDX returned to 0 (R172, R176). -/
theorem DecoderInv.restart (h : DecoderInv size d) : DecoderInv size { d with idx := 0 } :=
  h.of_same_buffers (Nat.zero_lt_of_lt h.idxBelow) rfl rfl

/-- A byte written inside WORK, with IDX moved to another index of the buffer (R173, R175, R204, R234). -/
theorem DecoderInv.write_work (h : DecoderInv size d) {i : Nat} (hi : i < size) (b : Byte) {j : Byte} (hj : j.toNat < size) :
    DecoderInv size { d with work := d.work.write i b, idx := j } :=
  { h with idxBelow := hj, workWf := Memory.write_wf h.workWf i b, workBelow := Memory.write_below h.workBelow hi b }

/-- An accepted sync byte (R173, R203, R232), in a buffer that has an index 1. -/
theorem DecoderInv.accept (h : DecoderInv size d) (hsize : 1 < size) (b : Byte) (now : Word) :
    DecoderInv size (d.accept b now) :=
  (h.write_work (i := 0) (j := 1) (by omega) b hsize).of_same_buffers hsize rfl rfl

/-- A string of bytes written to the front of STABLE (R83). -/
theorem DecoderInv.write_stable (h : DecoderInv size d) {bs : List Byte} (hlen : bs.length ≤ size) :
    DecoderInv size { d with stable := d.stable.writeBytes 0 bs } :=
  { h with
    stableWf := Memory.writeBytes_wf h.stableWf bs 0
    stableBelow := Memory.writeBytes_below h.stableBelow bs (by omega) }

/-- A published frame: its last byte stored, its bytes copied to STABLE, and IDX returned to 0 (R83, R176, R205, R235). -/
theorem DecoderInv.publish (h : DecoderInv size d) (b n : Byte) (hn : n.toNat ≤ size) (k : Word) :
    DecoderInv size { d with
      work := d.work.write d.idx.toNat b
      stable := d.stable.writeBytes 0 ((d.work.write d.idx.toNat b).bytes 0 n.toNat)
      slen := n, empty := false, ready := true, rxcount := k, idx := 0 } :=
  have hlen : ((d.work.write d.idx.toNat b).bytes 0 n.toNat).length ≤ size := by simpa using hn
  ((h.write_work h.idxBelow b h.restart.idxBelow).write_stable hlen).of_same_buffers h.restart.idxBelow rfl rfl

end Sys2Proof.Machine
end

section
/-! What the FEED, UNPACK, TAKE and WAIT of each decoder unit keep of its invariant (spec/10_state.md R34 to R37): one lemma per
way of changing the unit, and FEED and UNPACK by the cases of `Laws/Units.lean`. -/

namespace Sys2Proof.Machine

/-! ## Channel values (R35 to R37) -/

theorem packedChannel_lt (payload : List Byte) (i : Nat) : (packedChannel payload i).toNat < 2 ^ 11 := by
  rw [packedChannel, BitVec.toNat_setWidth_of_le (by decide)]
  exact BitVec.isLt _

theorem ibusBase_lt (f : Memory) (o i : Nat) : (ibusBase f o i).toNat < 2 ^ 12 := by
  have hlo := (f.read (o + 2 * i)).isLt
  have hhi : (f.read (o + 2 * i + 1) &&& 0x0F).toNat ≤ 15 := by
    rw [BitVec.toNat_and]; exact Nat.and_le_right
  rw [ibusBase, le16_toNat]
  omega

theorem ibusExtension_lt (f : Memory) (o k : Nat) : (ibusExtension f o k).toNat < 2 ^ 12 := by
  have hbyte (x : Byte) : (x.setWidth 16).toNat < 2 ^ 8 := by
    rw [BitVec.toNat_setWidth_of_le (by decide)]; exact x.isLt
  have hshift (x : Byte) : (x.setWidth 16 <<< 4).toNat < 2 ^ 12 := by
    have := hbyte x
    rw [BitVec.toNat_shiftLeft, Nat.shiftLeft_eq]
    omega
  simp only [ibusExtension, BitVec.toNat_or]
  refine Nat.or_lt_two_pow (Nat.or_lt_two_pow ?_ ?_) (hshift _)
  · exact Nat.lt_trans (hbyte _) (by decide)
  · exact Nat.lt_trans (hbyte _) (by decide)

theorem crsfChannels_lt (f : Memory) (i : Fin crsfChCount) : (crsfChannels f)[i].toNat < 2 ^ 11 := by
  simpa [crsfChannels] using packedChannel_lt (f.bytes 3 22) i

theorem sbusChannels_lt (f : Memory) (i : Fin sbusChCount) :
    (sbusChannels f)[i].toNat < (if i.val < sbusDataChannels then 2 ^ 11 else 2) := by
  have hflag (b : Bool) : ((BitVec.ofBool b).setWidth 16 : Half).toNat < 2 := by cases b <;> decide
  simp only [sbusChannels, Fin.getElem_fin, Vector.getElem_ofFn]
  split_ifs
  · exact packedChannel_lt _ _
  · exact hflag _
  · exact hflag _

theorem ibusChannels_lt (f : Memory) (o : Nat) (i : Fin ibusChCount) : (ibusChannels f o)[i].toNat < 2 ^ 12 := by
  simp only [ibusChannels, Fin.getElem_fin, Vector.getElem_ofFn]
  split_ifs
  · exact ibusBase_lt f o i
  · exact ibusExtension_lt f o _

/-! ## CRSF -/

section
variable {u u' : CrsfUnit}

/-- The unit's invariant reads none of START, READY, DROPPED and RXCOUNT. -/
theorem CrsfInv.of_counters (h : CrsfInv u) (start dropped rxcount : Word) (ready : Bool) :
    CrsfInv { u with dec := { u.dec with start := start, ready := ready, dropped := dropped, rxcount := rxcount } } :=
  { h with dec := h.dec.of_same_buffers h.dec.idxBelow rfl rfl }

/-- The frame in progress is abandoned (R172, R174). -/
theorem CrsfInv.abandon (h : CrsfInv u) : CrsfInv { u with dec := { u.dec with idx := 0 } } :=
  { h with dec := h.dec.restart, collecting := nofun }

theorem CrsfInv.resync (h : CrsfInv u) (now budget : Word) : CrsfInv { u with dec := u.dec.resync now budget } := by
  obtain ⟨-, -, hd⟩ | ⟨-, hd⟩ := Decoder.resync_cases u.dec now budget <;> rw [hd]
  · exact h.abandon.of_counters u.dec.start (u.dec.dropped + 1) u.dec.rxcount u.dec.ready
  · exact h

theorem CrsfInv.accept (h : CrsfInv u) (b : Byte) (now : Word) : CrsfInv { u with dec := u.dec.accept b now } :=
  { h with dec := h.dec.accept (by decide) b now, collecting := by simp }

/-- STABLE holds no unconsumed frame any more (R173, R180). -/
theorem CrsfInv.consumed (h : CrsfInv u) : CrsfInv { u with dec := { u.dec with empty := true } } :=
  { h with dec := h.dec.of_same_buffers h.dec.idxBelow rfl rfl, published := nofun }

/-- A length byte in range (R174): TARGET is 4..64 and IDX is 2. -/
theorem CrsfInv.length_byte (h : CrsfInv u) {b : Byte} (hb : ¬ (b < crsfLenMin ∨ crsfLenMax < b)) :
    CrsfInv { u with target := b + 2, dec := { u.dec with work := u.dec.work.write 1 b, idx := 2 } } := by
  have htarget : 4 ≤ (b + 2).toNat ∧ (b + 2).toNat ≤ crsfBuf := by
    simp only [crsfLenMin, crsfLenMax, crsfBuf] at hb ⊢
    bv_omega
  exact { h with
    dec := h.dec.write_work (by decide) b (by decide)
    target := .inr htarget
    collecting := fun _ => Nat.lt_of_lt_of_le (show (2 : Byte).toNat < 4 by decide) htarget.1 }

/-- A payload byte (R175, R176): while a payload is collected TARGET is set and above IDX, so the byte before the last one keeps
IDX below it and the last one publishes a frame of TARGET bytes. -/
theorem CrsfInv.payload (h : CrsfInv u) {b : Byte} {r : Bool} (hidx0 : u.dec.idx ≠ 0) (hidx1 : u.dec.idx ≠ 1)
    (hp : crsfPayload u b = .ok (u', r)) : CrsfInv u' := by
  have hidx : 2 ≤ u.dec.idx.toNat := by bv_omega
  have hbelow := h.collecting hidx
  have htarget : 4 ≤ u.target.toNat ∧ u.target.toNat ≤ crsfBuf := by
    refine h.target.resolve_left fun e => ?_
    simp [e] at hbelow
  obtain ⟨-, ⟨hne, -, rfl⟩ | ⟨-, hsize, -, rfl⟩⟩ := crsfPayload_cases hp
  case inl =>
    have hnext : (u.dec.idx + 1).toNat < u.target.toNat := by bv_omega
    exact { h with
      dec := h.dec.write_work h.dec.idxBelow b (Nat.lt_of_lt_of_le hnext htarget.2)
      collecting := fun _ => hnext }
  case inr =>
    exact { h with
      dec := h.dec.publish b u.target hsize _
      collecting := nofun
      slen := hsize
      published := fun _ => htarget.1 }

theorem CrsfInv.feed (h : CrsfInv u) {b : Byte} {now : Word} {r : Bool} (hf : crsfFeed u b now = .ok (u', r)) :
    CrsfInv u' := by
  have h := h.resync now crsfBudgetUs
  obtain ⟨-, -, -, rfl⟩ | ⟨-, -, -, rfl⟩ | ⟨-, -, -, rfl⟩ | ⟨-, hb, -, rfl⟩ | ⟨h0, h1, hp⟩ := crsfFeed_cases hf
  · exact h.accept b now
  · exact h.consumed
  · exact h.abandon
  · exact h.length_byte hb
  · exact h.payload h0 h1 hp

theorem CrsfInv.unpack (h : CrsfInv u) {r : Bool} (hu : crsfUnpack u = .ok (u', r)) : CrsfInv u' := by
  obtain ⟨-, -, rfl⟩ | ⟨-, -, rfl⟩ | ⟨-, -, -, -, -, rfl⟩ := crsfUnpack_cases hu
  · exact h
  · exact h.consumed
  · exact { h.consumed with channels := crsfChannels_lt u.dec.stable }

theorem CrsfInv.reset : CrsfInv CrsfUnit.reset where
  dec := .reset (by decide)
  target := .inl rfl
  collecting := nofun
  slen := Nat.zero_le _
  published := nofun
  channels i := by simp [CrsfUnit.reset]

end

/-! ## SBUS -/

section
variable {u u' : SbusUnit}

/-- As `CrsfInv.of_counters`; ERRORS is not read either. -/
theorem SbusInv.of_counters (h : SbusInv u) (start dropped rxcount errors : Word) (ready : Bool) :
    SbusInv { u with
      errors := errors
      dec := { u.dec with start := start, ready := ready, dropped := dropped, rxcount := rxcount } } :=
  { h with dec := h.dec.of_same_buffers h.dec.idxBelow rfl rfl }

/-- The frame in progress is abandoned (R202). -/
theorem SbusInv.abandon (h : SbusInv u) : SbusInv { u with dec := { u.dec with idx := 0 } } :=
  { h with dec := h.dec.restart }

theorem SbusInv.resync (h : SbusInv u) (now budget : Word) : SbusInv { u with dec := u.dec.resync now budget } := by
  obtain ⟨-, -, hd⟩ | ⟨-, hd⟩ := Decoder.resync_cases u.dec now budget <;> rw [hd]
  · exact h.abandon.of_counters u.dec.start (u.dec.dropped + 1) u.dec.rxcount u.errors u.dec.ready
  · exact h

/-- STABLE holds no unconsumed frame any more (R203, R210). -/
theorem SbusInv.consumed (h : SbusInv u) : SbusInv { u with dec := { u.dec with empty := true } } :=
  { h with dec := h.dec.of_same_buffers h.dec.idxBelow rfl rfl, published := nofun }

/-- A byte stored in WORK, with IDX moved to an index of the buffer (R203, R204, R205). -/
theorem SbusInv.write_work (h : SbusInv u) {i : Nat} (hi : i < sbusFrame) (b : Byte) {j : Byte} (hj : j.toNat < sbusFrame) :
    SbusInv { u with dec := { u.dec with work := u.dec.work.write i b, idx := j } } :=
  { h with dec := h.dec.write_work hi b hj }

/-- A byte after the first (R204, R205). -/
theorem SbusInv.data (h : SbusInv u) {b : Byte} {r : Bool} (hd : sbusData u b = .ok (u', r)) : SbusInv u' := by
  obtain ⟨hi, ⟨hne, -, rfl⟩ | ⟨-, -, -, rfl⟩ | ⟨-, -, -, rfl⟩⟩ := sbusData_cases hd
  · have hnext : (u.dec.idx + 1).toNat < sbusFrame := by
      simp only [sbusFrame] at hi ⊢
      bv_omega
    exact h.write_work hi b hnext
  · exact (h.write_work hi b (by decide)).of_counters _ _ _ (u.errors + 1) _
  · exact { h with dec := h.dec.publish b 25 (by decide) _, slen := .inr rfl, published := fun _ => rfl }

theorem SbusInv.feed (h : SbusInv u) {b : Byte} {now : Word} {r : Bool} (hf : sbusFeed u b now = .ok (u', r)) :
    SbusInv u' := by
  have h := h.resync now sbusBudgetUs
  obtain ⟨-, -, -, rfl⟩ | ⟨-, -, -, rfl⟩ | ⟨-, hd⟩ := sbusFeed_cases hf
  · exact { h with dec := h.dec.accept (by decide) b now }
  · exact h.consumed
  · exact h.data hd

theorem SbusInv.unpack (h : SbusInv u) {r : Bool} (hu : sbusUnpack u = (u', r)) : SbusInv u' := by
  obtain ⟨-, e⟩ | ⟨-, e⟩ := sbusUnpack_cases u <;> rw [e] at hu <;> cases hu
  · exact h
  · exact { h.consumed with channels := sbusChannels_lt u.dec.stable }

theorem SbusInv.reset : SbusInv SbusUnit.reset where
  dec := .reset (by decide)
  slen := .inl rfl
  published := nofun
  channels i := by simp only [SbusUnit.reset, Fin.getElem_fin, Vector.getElem_replicate]; split_ifs <;> decide

end

/-! ## IBUS -/

section
variable {u u' : IbusUnit}

/-- As `CrsfInv.of_counters`. -/
theorem IbusInv.of_counters (h : IbusInv u) (start dropped rxcount : Word) (ready : Bool) :
    IbusInv { u with dec := { u.dec with start := start, ready := ready, dropped := dropped, rxcount := rxcount } } :=
  { h with dec := h.dec.of_same_buffers h.dec.idxBelow rfl rfl }

/-- The frame in progress is abandoned (R233, R235). -/
theorem IbusInv.abandon (h : IbusInv u) : IbusInv { u with dec := { u.dec with idx := 0 } } :=
  { h with
    dec := h.dec.restart
    latch := h.latch.imp_left fun ⟨hm, ho, hs, hseed, _⟩ => ⟨hm, ho, hs, hseed, rfl⟩
    collecting := fun hne => absurd rfl hne }

theorem IbusInv.resync (h : IbusInv u) (now budget : Word) : IbusInv { u with dec := u.dec.resync now budget } := by
  obtain ⟨-, -, hd⟩ | ⟨-, hd⟩ := Decoder.resync_cases u.dec now budget <;> rw [hd]
  · exact h.abandon.of_counters u.dec.start (u.dec.dropped + 1) u.dec.rxcount u.dec.ready
  · exact h

/-- STABLE holds no unconsumed frame any more (R232, R240). -/
theorem IbusInv.consumed (h : IbusInv u) : IbusInv { u with dec := { u.dec with empty := true } } :=
  { h with
    dec := h.dec.of_same_buffers h.dec.idxBelow rfl rfl
    published := h.published.imp_left fun ⟨hlen, ho, hs, _⟩ => ⟨hlen, ho, hs, rfl⟩ }

/-- A first byte that selects a model latches that model's registers, with SIZE above 1 (R232). -/
theorem IbusInv.detect (h : IbusInv u) {v : IbusUnit} {b : Byte} (hv : ibusDetect u b = some v) (now : Word) :
    IbusInv { v with dec := u.dec.accept b now } := by
  have hdec := h.dec.accept (by decide) b now
  obtain ⟨hb, rfl⟩ | ⟨-, rfl⟩ := ibusDetect_cases hv
  case inl =>
    have hsize : b = 32 ∨ b = 4 := hb
    have hone : (1 : Byte).toNat < b.toNat := by obtain rfl | rfl := hsize <;> decide
    exact { h with
      dec := hdec
      latch := .inr (.inl ⟨rfl, rfl, hsize, rfl⟩)
      collecting := fun _ => hone }
  case inr =>
    have hone : (1 : Byte).toNat < ibusFrameIa6.toNat := by decide
    exact { h with dec := hdec, latch := .inr (.inr ⟨rfl, rfl, rfl, rfl⟩), collecting := fun _ => hone }

/-- A byte after the first (R234 to R236): a model is latched, IDX stays below SIZE, and the frame published has one of the two
shapes of R266. -/
theorem IbusInv.data (h : IbusInv u) {b : Byte} {r : Bool} (hidx : u.dec.idx ≠ 0) (hd : ibusData u b = .ok (u', r)) :
    IbusInv u' := by
  have hbelow := h.collecting hidx
  have hlatch := h.latch.resolve_left fun ⟨_, _, _, _, hzero⟩ => hidx hzero
  have hsize : u.size.toNat ≤ ibusBuf := by
    obtain ⟨-, -, hs | hs, -⟩ | ⟨-, -, hs, -⟩ := hlatch <;> rw [hs] <;> decide
  obtain ⟨hi, ⟨hne, -, rfl⟩ | ⟨-, -, -, rfl⟩ | ⟨-, hne4, hn, -, rfl⟩⟩ := ibusData_cases hd
  case inl =>
    have hnext : (u.dec.idx + 1).toNat < u.size.toNat := by bv_omega
    exact { h with
      dec := h.dec.write_work hi b (Nat.lt_of_lt_of_le hnext hsize)
      latch := .inr hlatch
      collecting := fun _ => hnext }
  case inr.inl =>
    exact { h with
      dec := h.dec.write_work hi b (by decide)
      latch := .inr hlatch
      collecting := fun hz => absurd rfl hz }
  case inr.inr =>
    exact { h with
      dec := h.dec.publish b u.size hn _
      latch := .inr hlatch
      collecting := fun hz => absurd rfl hz
      published := .inr <| hlatch.imp
        (fun ⟨_, ho, hs, hseed⟩ => ⟨hs.resolve_right hne4, ho, hseed⟩)
        (fun ⟨_, ho, hs, hseed⟩ => ⟨hs, ho, hseed⟩) }

theorem IbusInv.feed (h : IbusInv u) {b : Byte} {now : Word} {r : Bool} (hf : ibusFeed u b now = .ok (u', r)) :
    IbusInv u' := by
  have h := h.resync now ibusBudgetUs
  obtain ⟨-, -, v, hv, rfl⟩ | ⟨-, -, -, rfl⟩ | ⟨hidx, hd⟩ := ibusFeed_cases hf
  · exact h.detect hv now
  · exact h.consumed
  · exact h.data hidx hd

theorem IbusInv.unpack (h : IbusInv u) {r : Bool} (hu : ibusUnpack u = .ok (u', r)) : IbusInv u' := by
  obtain ⟨-, -, rfl⟩ | ⟨-, -, rfl⟩ | ⟨-, -, -, rfl⟩ := ibusUnpack_cases hu
  · exact h
  · exact h.consumed
  · exact { h.consumed with channels := ibusChannels_lt u.dec.stable u.soffset.toNat }

theorem IbusInv.reset : IbusInv IbusUnit.reset where
  dec := .reset (by decide)
  latch := .inl ⟨rfl, rfl, rfl, rfl, rfl⟩
  collecting h := absurd rfl h
  published := .inl ⟨rfl, rfl, rfl, rfl⟩
  channels i := by simp [IbusUnit.reset]

end

end Sys2Proof.Machine
end

section
/-! What the transceiver's operations keep of its invariant (spec/45_peer_transceiver.md R308). -/

namespace Sys2Proof.Machine

/-! ## Slots -/

/-- A slot set up with a capacity in range (R283, R285, R287). -/
theorem SlotInv.setup {k : Slot} (h : SlotInv k) (enc : Bool) (ch : Byte) {cap : Half} (hcap : cap.toNat ≤ ptCapMax) :
    SlotInv (k.setup enc ch cap) :=
  { h with lenCap := Nat.zero_le _, capMax := hcap }

/-- The slot's invariant reads its capacity, length and buffer, not its address. -/
theorem SlotInv.of_address {k : Slot} (h : SlotInv k) (a : Addr) (b : Bool) : SlotInv { k with addr := a, aset := b } :=
  { h with }

/-- The copy of a delivered frame (R293): LEN is at most CAP, and the bytes lie in the buffer. -/
theorem SlotInv.receive {k k' : Slot} (h : SlotInv k) {data : List Byte} (hr : k.receive data = .ok k') : SlotInv k' := by
  obtain ⟨hfits, rfl⟩ := Slot.receive_ok hr
  have hlen : (BitVec.ofNat 16 (min data.length k.cap.toNat)).toNat ≤ k.cap.toNat :=
    Nat.le_trans (by rw [BitVec.toNat_ofNat]; exact Nat.mod_le _ _) (Nat.min_le_right _ _)
  exact { h with
    lenCap := hlen
    bufWf := Memory.writeBytes_wf h.bufWf _ 0
    bufBelow := Memory.writeBytes_below h.bufBelow _ (by simpa using hfits) }

/-- A copy writes BUF and LEN alone. -/
theorem Slot.receive_frame {k k' : Slot} {data : List Byte} (hr : k.receive data = .ok k') :
    k'.aset = k.aset ∧ k'.addr = k.addr ∧ k'.rxen = k.rxen := by
  obtain ⟨-, rfl⟩ := Slot.receive_ok hr
  exact ⟨rfl, rfl, rfl⟩

theorem SlotInv.resetOther : SlotInv Slot.resetOther := ⟨Nat.le_refl _, Nat.zero_le _, rfl, rfl⟩

theorem addrConsistent.of_same_address {k k' : Slot} (h : addrConsistent k) (haset : k'.aset = k.aset)
    (haddr : k'.addr = k.addr) : addrConsistent k' := by
  rwa [addrConsistent, haset, haddr]

/-- A slot given an address that is neither of the two forbidden ones (R286, R287, R291). -/
theorem addrConsistent.of_set {k : Slot} {a : Addr} (hzero : a ≠ zeroAddr) (hbcast : a ≠ bcastAddr) :
    addrConsistent { k with addr := a, aset := true } :=
  ⟨nofun, fun _ => ⟨hzero, hbcast⟩⟩

/-! ## The transceiver -/

section
variable {t : Transceiver}

/-- The invariant reads no counter and no readiness signal. -/
theorem TransceiverInv.of_counters (h : TransceiverInv t) (rxcount lastTick tickDelta : Word) (readyPri readySec : Bool) :
    TransceiverInv { t with
      rxcount := rxcount, lastTick := lastTick, tickDelta := tickDelta, readyPri := readyPri, readySec := readySec } :=
  { h with }

/-- An announcement begun, continued or ended (R298). -/
theorem TransceiverInv.of_announcement (h : TransceiverInv t) {active : Bool} {left : Byte} (ha : active = false ↔ left = 0) :
    TransceiverInv { t with bidActive := active, bidLeft := left } :=
  { h with announcement := ha }

/-- The primary slot rewritten at the same address. -/
theorem TransceiverInv.replace_pri (h : TransceiverInv t) {k : Slot} (hk : SlotInv k) (haset : k.aset = t.pri.aset)
    (haddr : k.addr = t.pri.addr) (hrxen : k.rxen = t.pri.rxen) : TransceiverInv { t with pri := k } :=
  { h with
    pri := hk
    priAddr := h.priAddr.of_same_address haset haddr
    distinct := haset ▸ haddr ▸ h.distinct
    rxen := ⟨hrxen.trans h.rxen.1, h.rxen.2⟩ }

/-- The secondary slot rewritten, with an address that is not the bound primary's. -/
theorem TransceiverInv.replace_sec (h : TransceiverInv t) {k : Slot} (hk : SlotInv k) (haddr : addrConsistent k)
    (hdistinct : t.pri.aset = true → k.aset = true → t.pri.addr ≠ k.addr) (hrxen : k.rxen = t.sec.rxen) :
    TransceiverInv { t with sec := k } :=
  { h with sec := hk, secAddr := haddr, distinct := hdistinct, rxen := ⟨h.rxen.1, hrxen.trans h.rxen.2⟩ }

/-- The primary given an address that is neither forbidden nor the secondary's (R286, R291). -/
theorem TransceiverInv.set_priAddr (h : TransceiverInv t) {a : Addr} (hzero : a ≠ zeroAddr) (hbcast : a ≠ bcastAddr)
    (hsec : t.sec.aset = true → a ≠ t.sec.addr) :
    TransceiverInv { t with pri := { t.pri with addr := a, aset := true } } :=
  { h with pri := h.pri.of_address a true, priAddr := .of_set hzero hbcast, distinct := fun _ => hsec }

/-- Binding (R291) gives the primary an address that no other slot has. -/
theorem TransceiverInv.bind (h : TransceiverInv t) {src : Addr} (hbcast : src ≠ bcastAddr) : TransceiverInv (t.bind src) := by
  obtain ⟨-, -, hzero, hsec, e⟩ | ⟨-, e⟩ := Transceiver.bind_cases t src <;> rw [e]
  · exact h.set_priAddr hzero hbcast fun _ => hsec
  · exact h

/-- The secondary set up anew (R287): the address it is given is not refused. -/
theorem TransceiverInv.addSecondary (h : TransceiverInv t) (enc : Bool) (ch : Byte) {cap : Half} (hcap : cap.toNat ≤ ptCapMax)
    {o : Option Addr} (ho : secondaryAddrRefused t o = false) :
    TransceiverInv { t with sec := (t.sec.setup enc ch cap).setAddr o } := by
  have hsetup := h.sec.setup enc ch hcap
  cases o with
  | none => exact h.replace_sec (hsetup.of_address zeroAddr false) ⟨fun _ => rfl, nofun⟩ (fun _ => nofun) rfl
  | some a =>
    obtain ⟨hbcast, hzero, hpri⟩ : a ≠ bcastAddr ∧ a ≠ zeroAddr ∧ ¬ (t.pri.aset = true ∧ a = t.pri.addr) := by
      simpa [ho] using (secondaryAddrRefused_some t a).not
    exact h.replace_sec (hsetup.of_address a true) (.of_set hzero hbcast) (fun hp _ e => hpri ⟨hp, e.symm⟩) rfl

/-- A frame received (R290 to R295). -/
theorem TransceiverInv.receive (h : TransceiverInv t) {t' : Transceiver} {src : Addr} {data : List Byte} {tick r : Word}
    (hr : ptReceive t src data tick = .ok (t', r)) : TransceiverInv t' := by
  obtain ⟨-, rfl, -⟩ | ⟨hb, -, -, k, hk, rfl⟩ | ⟨hb, -, -, -, k, hk, rfl⟩ | ⟨hb, -, -, rfl, -⟩ := ptReceive_cases hr
  case inl => exact h
  case inr.inl =>
    obtain ⟨haset, haddr, hrxen⟩ := Slot.receive_frame hk
    have h := h.bind hb
    exact (h.replace_pri (h.pri.receive hk) haset haddr hrxen).of_counters _ _ _ true _
  case inr.inr.inl =>
    obtain ⟨haset, haddr, hrxen⟩ := Slot.receive_frame hk
    have h := h.bind hb
    exact (h.replace_sec (h.sec.receive hk) (h.secAddr.of_same_address haset haddr) (haset ▸ haddr ▸ h.distinct)
      hrxen).of_counters _ _ _ _ true
  case inr.inr.inr => exact h.bind hb

theorem TransceiverInv.reset : TransceiverInv Transceiver.reset where
  bcast := rfl
  rsv := rfl
  pri := .resetOther
  sec := .resetOther
  priAddr := ⟨fun _ => rfl, nofun⟩
  secAddr := ⟨fun _ => rfl, nofun⟩
  distinct := nofun
  rxen := ⟨rfl, rfl⟩
  announcement := by decide

end

end Sys2Proof.Machine
end

section
/-! What one command does to each unit, read off its `Effect` (spec/10_state.md R33): a command of another unit leaves the unit as it
is, and the unit's own commands do one of the few things its invariant is proved for. -/

namespace Sys2Proof.Machine

variable {i : Instr} {s s' : State}

/-! ## The commands that take a readiness signal -/

theorem isCrsf_of_waitsFor (h : waitsFor i = some .crsf) : isCrsf i = true := by
  cases i <;> simp_all [waitsFor, isCrsf]

theorem isSbus_of_waitsFor (h : waitsFor i = some .sbus) : isSbus i = true := by
  cases i <;> simp_all [waitsFor, isSbus]

theorem isIbus_of_waitsFor (h : waitsFor i = some .ibus) : isIbus i = true := by
  cases i <;> simp_all [waitsFor, isIbus]

theorem not_isUnit_of_waitsFor_peer {p : PeerId} (h : waitsFor i = some (.peer p)) :
    (isCrsf i || isSbus i || isIbus i || isPure i) = false := by
  cases i <;> simp_all [waitsFor, isCrsf, isSbus, isIbus, isPure]

/-! ## The units -/

/-- All that a command can do to the CRSF unit. -/
theorem Effect.crsf_cases (h : Effect i s s') :
    s'.crsf = s.crsf ∨
    (isCrsf i = true ∧ (s'.crsf = { s.crsf with dec := { s.crsf.dec with ready := false } } ∨
      (∃ b r, Machine.crsfFeed s.crsf b s.env.timeUs = .ok (s'.crsf, r)) ∨ ∃ r, Machine.crsfUnpack s.crsf = .ok (s'.crsf, r))) := by
  cases h with
  | take _ _ t v hw =>
    by_cases ht : t = .crsf
    · subst ht; exact .inr ⟨isCrsf_of_waitsFor hw, .inl rfl⟩
    · exact .inl (State.clearReady_crsf_of_ne s ht)
  | crsfFeed _ b u r hu => exact .inr ⟨rfl, .inr (.inl ⟨b, r, hu⟩)⟩
  | crsfUnpack _ u r hu => exact .inr ⟨rfl, .inr (.inr ⟨r, hu⟩)⟩
  | _ => exact .inl rfl

/-- All that a command can do to the SBUS unit. -/
theorem Effect.sbus_cases (h : Effect i s s') :
    s'.sbus = s.sbus ∨
    (isSbus i = true ∧ (s'.sbus = { s.sbus with dec := { s.sbus.dec with ready := false } } ∨
      (∃ b r, Machine.sbusFeed s.sbus b s.env.timeUs = .ok (s'.sbus, r)) ∨ ∃ r, Machine.sbusUnpack s.sbus = (s'.sbus, r))) := by
  cases h with
  | take _ _ t v hw =>
    by_cases ht : t = .sbus
    · subst ht; exact .inr ⟨isSbus_of_waitsFor hw, .inl rfl⟩
    · exact .inl (State.clearReady_sbus_of_ne s ht)
  | sbusFeed _ b u r hu => exact .inr ⟨rfl, .inr (.inl ⟨b, r, hu⟩)⟩
  | sbusUnpack _ u r hu => exact .inr ⟨rfl, .inr (.inr ⟨r, hu⟩)⟩
  | _ => exact .inl rfl

/-- All that a command can do to the IBUS unit. -/
theorem Effect.ibus_cases (h : Effect i s s') :
    s'.ibus = s.ibus ∨
    (isIbus i = true ∧ (s'.ibus = { s.ibus with dec := { s.ibus.dec with ready := false } } ∨
      (∃ b r, Machine.ibusFeed s.ibus b s.env.timeUs = .ok (s'.ibus, r)) ∨ ∃ r, Machine.ibusUnpack s.ibus = .ok (s'.ibus, r))) := by
  cases h with
  | take _ _ t v hw =>
    by_cases ht : t = .ibus
    · subst ht; exact .inr ⟨isIbus_of_waitsFor hw, .inl rfl⟩
    · exact .inl (State.clearReady_ibus_of_ne s ht)
  | ibusFeed _ b u r hu => exact .inr ⟨rfl, .inr (.inl ⟨b, r, hu⟩)⟩
  | ibusUnpack _ u r hu => exact .inr ⟨rfl, .inr (.inr ⟨r, hu⟩)⟩
  | _ => exact .inl rfl

/-- A command of a decoder unit, of the validators or of the codec leaves the transceiver as it is. -/
theorem Effect.pt_eq (h : Effect i s s') (hi : (isCrsf i || isSbus i || isIbus i || isPure i) = true) : s'.pt = s.pt := by
  cases h with
  | take _ _ t v hw =>
    refine State.clearReady_pt_of_ne s fun p hp => ?_
    rw [not_isUnit_of_waitsFor_peer (hp ▸ hw)] at hi
    cases hi
  | setupPrimary | setPrimaryAddr | addSecondary | rx | announce => cases hi
  | _ => rfl

/-- Settles O13: a unit's registers change only by its own FEED, UNPACK, TAKE and WAIT, the transceiver's only by its commands. -/
theorem unitsDoNotWriteEachOther : Obligations.UnitsDoNotWriteEachOther := by
  intro i s s' h
  have he := exec_effect h
  refine ⟨fun hi => ?crsf, fun hi => ?sbus, fun hi => ?ibus, he.pt_eq⟩
  case crsf => exact he.crsf_cases.resolve_right fun hown => by simp [hi] at hown
  case sbus => exact he.sbus_cases.resolve_right fun hown => by simp [hi] at hown
  case ibus => exact he.ibus_cases.resolve_right fun hown => by simp [hi] at hown

end Sys2Proof.Machine
end

section
/-! The invariant of the whole machine (spec/10_state.md R32 to R37, spec/45_peer_transceiver.md R308): every command and every step
keep it, and the reset state meets it. -/

namespace Sys2Proof.Machine

variable {i : Instr} {s s' : State}

/-! ## One command -/

theorem Effect.keeps_crsfInv (h : Effect i s s') (hinv : CrsfInv s.crsf) : CrsfInv s'.crsf := by
  obtain e | ⟨-, e | ⟨b, r, hf⟩ | ⟨r, hu⟩⟩ := h.crsf_cases
  · exact e ▸ hinv
  · exact e ▸ hinv.of_counters _ _ _ false
  · exact hinv.feed hf
  · exact hinv.unpack hu

theorem Effect.keeps_sbusInv (h : Effect i s s') (hinv : SbusInv s.sbus) : SbusInv s'.sbus := by
  obtain e | ⟨-, e | ⟨b, r, hf⟩ | ⟨r, hu⟩⟩ := h.sbus_cases
  · exact e ▸ hinv
  · exact e ▸ hinv.of_counters _ _ _ _ false
  · exact hinv.feed hf
  · exact hinv.unpack hu

theorem Effect.keeps_ibusInv (h : Effect i s s') (hinv : IbusInv s.ibus) : IbusInv s'.ibus := by
  obtain e | ⟨-, e | ⟨b, r, hf⟩ | ⟨r, hu⟩⟩ := h.ibus_cases
  · exact e ▸ hinv
  · exact e ▸ hinv.of_counters _ _ _ false
  · exact hinv.feed hf
  · exact hinv.unpack hu

theorem Effect.keeps_transceiverInv (h : Effect i s s') (hinv : TransceiverInv s.pt) : TransceiverInv s'.pt := by
  cases h with
  | take _ _ t v hw =>
    obtain ⟨a, b, e⟩ := State.clearReady_pt s t
    rw [State.finish_pt, e]
    exact hinv.of_counters _ _ _ a b
  | setupPrimary _ enc ch cap hcap => exact hinv.replace_pri (hinv.pri.setup enc ch hcap) rfl rfl rfl
  | setPrimaryAddr _ a hunset hbcast hzero hsec => exact hinv.set_priAddr hzero hbcast fun hs e => hsec ⟨hs, e⟩
  | addSecondary _ enc ch cap o hcap ho => exact hinv.addSecondary enc ch hcap ho
  | rx _ src data t r hr => exact hinv.receive hr
  | announce _ n dly hn => exact hinv.of_announcement (iff_of_false nofun hn)
  | _ => exact hinv

/-- What a command leaves the consumer at: a WAIT blocks it and begins no announcement, PT.BCAST_ID begins one and blocks nothing,
and every other command leaves both registers as they were. -/
theorem Effect.consumer_cases (h : Effect i s s') :
    (s'.waiting = s.waiting ∧ s'.pt.bidActive = s.pt.bidActive) ∨
    (∃ w, i = w.instr ∧ pendingWaitOk w ∧ s'.waiting = some w ∧ s'.pt.bidActive = s.pt.bidActive) ∨
    (∃ n dly, i = .ptBcastId n dly ∧ s'.waiting = s.waiting) := by
  cases h with
  | block _ w _ hp => exact .inr (.inl ⟨w, rfl, hp, rfl, rfl⟩)
  | take _ _ t v hw =>
    obtain ⟨a, b, e⟩ := State.clearReady_pt s t
    refine .inl ⟨State.clearReady_waiting s t, ?_⟩
    rw [State.finish_pt, e]
  | rx _ src data t r hr =>
    refine .inl ⟨rfl, ?_⟩
    have hbind : (s.pt.bind src).bidActive = s.pt.bidActive := by
      obtain ⟨-, -, -, -, e⟩ | ⟨-, e⟩ := Transceiver.bind_cases s.pt src <;> rw [e]
    obtain ⟨-, rfl, -⟩ | ⟨-, -, -, k, -, rfl⟩ | ⟨-, -, -, -, k, -, rfl⟩ | ⟨-, -, -, rfl, -⟩ := ptReceive_cases hr
    · rfl
    · exact hbind
    · exact hbind
    · exact hbind
  | announce _ n dly _ => exact .inr (.inr ⟨n, dly, rfl, rfl⟩)
  | _ => exact .inl ⟨rfl, rfl⟩

/-- A command keeps the invariant, if the consumer takes a WAIT only while no announcement is in progress and begins an announcement
only while no WAIT is blocked. -/
theorem Effect.keeps_inv (h : Effect i s s') (hinv : Inv s) (hwait : ∀ w : PendingWait, i = w.instr → s.pt.bidActive = false)
    (hannounce : ∀ n dly, i = .ptBcastId n dly → s.waiting = none) : Inv s' := by
  have hconsumer : (∀ w, s'.waiting = some w → pendingWaitOk w) ∧ (s'.pt.bidActive = true → s'.waiting = none) := by
    obtain ⟨ew, eb⟩ | ⟨w, hi, hw, ew, eb⟩ | ⟨n, dly, hi, ew⟩ := h.consumer_cases
    · rw [ew, eb]; exact ⟨hinv.waiting, hinv.oneCommand⟩
    · rw [ew, eb, hwait w hi]
      exact ⟨fun w' e => Option.some.inj e ▸ hw, nofun⟩
    · rw [ew, hannounce n dly hi]; exact ⟨nofun, fun _ => rfl⟩
  exact {
    crsf := h.keeps_crsfInv hinv.crsf
    sbus := h.keeps_sbusInv hinv.sbus
    ibus := h.keeps_ibusInv hinv.ibus
    pt := h.keeps_transceiverInv hinv.pt
    waiting := hconsumer.1
    oneCommand := hconsumer.2 }

/-! ## One step -/

/-- The invariant reads the block's registers and the consumer's blocked WAIT alone. -/
theorem Inv.of_sameBlock (h : Inv s) (hb : sameBlock s s') (hw : s'.waiting = s.waiting ∨ s'.waiting = none) : Inv s' := by
  obtain ⟨hcrsf, hsbus, hibus, hpt⟩ := hb
  exact {
    crsf := hcrsf ▸ h.crsf
    sbus := hsbus ▸ h.sbus
    ibus := hibus ▸ h.ibus
    pt := hpt ▸ h.pt
    waiting := by
      obtain e | e := hw <;> rw [e]
      · exact h.waiting
      · nofun
    oneCommand := fun hbid => by
      obtain e | e := hw
      · exact e.trans (h.oneCommand (hpt ▸ hbid))
      · exact e }

/-- One send of an announcement keeps the invariant (R298): the announcement is in progress exactly while sends are left. -/
theorem Inv.announcement_send (h : Inv s) (hbid : s.pt.bidActive = true) : Inv (ptBcastIdSend s) := by
  have hwait := h.oneCommand hbid
  have hended := h.pt.of_announcement (active := false) (left := 0) (by simp)
  obtain ⟨-, e⟩ | ⟨-, -, e⟩ | ⟨-, hmore, e⟩ := ptBcastIdSend_cases s <;> rw [e]
  · exact { h with pt := hended, oneCommand := nofun }
  · exact { h with pt := hended, oneCommand := nofun }
  · have hleft : s.pt.bidLeft - 1 ≠ 0 := by
      generalize s.pt.bidLeft = left at hmore ⊢
      bv_omega
    exact { h with
      pt := h.pt.of_announcement (active := s.pt.bidActive) (iff_of_false (by simp [hbid]) hleft)
      oneCommand := fun _ => hwait }

/-- A producer's command is neither a WAIT nor a PT.BCAST_ID (R406). -/
theorem producer_command_ne (h : isFeed i = true ∨ ∃ src data, i = .ptRx src data) :
    (∀ w : PendingWait, i ≠ w.instr) ∧ ∀ n dly, i ≠ .ptBcastId n dly := by
  refine ⟨fun ⟨t, m⟩ e => ?_, fun n dly e => ?_⟩ <;> subst e
  · cases t <;> simp [PendingWait.instr, isFeed] at h
  · simp [isFeed] at h

/-- Settles O8, by what one step can do (`step_effect`): nothing, one send of an announcement, a producer's command, or a command of
a consumer that is in no other command. -/
theorem invariantKept : Obligations.InvariantKept := by
  intro s s' hinv hstep
  obtain ⟨hb, hw⟩ | ⟨s0, hb, hw, hbid, rfl⟩ | ⟨s0, i, hb, hw, hi, he⟩ | ⟨s0, i, hb, hw, hbid, he⟩ := step_effect hstep
  · exact hinv.of_sameBlock hb (.inl hw)
  · have hpt : s0.pt = s.pt := hb.2.2.2
    exact (hinv.of_sameBlock hb (.inl hw)).announcement_send (hpt ▸ hbid)
  · obtain ⟨hwait, hannounce⟩ := producer_command_ne hi
    exact he.keeps_inv (hinv.of_sameBlock hb (.inl hw)) (fun w e => absurd e (hwait w))
      (fun n dly e => absurd e (hannounce n dly))
  · have hpt : s0.pt = s.pt := hb.2.2.2
    exact he.keeps_inv (hinv.of_sameBlock hb (.inr hw)) (fun _ _ => hpt ▸ hbid) (fun _ _ _ => hw)

/-- Settles O9: each unit at reset meets its invariant, and the consumer is in no command. -/
theorem resetMeetsInvariant : Obligations.ResetMeetsInvariant :=
  { crsf := .reset, sbus := .reset, ibus := .reset, pt := .reset, waiting := nofun, oneCommand := nofun }

end Sys2Proof.Machine
end

section
/-! No command reads another unit (spec/10_state.md R33): a decoder unit's command commutes with replacing the other units and the
transceiver. -/

namespace Sys2Proof.Machine

variable {i : Instr} {s s' : State} {f : State → State}

/-! ## What commutes with a change of the state that the command's operations commute with -/

theorem State.readStatus_comm (hfinish : ∀ v, (f s).finish v = f (s.finish v)) (hfail : ∀ st, (f s).failWith st = f (s.failWith st))
    (o : Option Word) : (f s).readStatus o = f (s.readStatus o) := by
  cases o with
  | none => exact hfail .illegal
  | some v => exact hfinish v

theorem State.wait_comm {g : WaitTarget} (hready : (f s).readyOf g = s.readyOf g) (henv : (f s).env = s.env)
    (htake : ∀ v, ((f s).clearReady g).finish v = f ((s.clearReady g).finish v))
    (hfinish : ∀ v, (f s).finish v = f (s.finish v)) (hblock : ∀ w, (f s).block w = f (s.block w)) (m : WaitMode) :
    (f s).wait g m = f (s.wait g m) := by
  cases hr : s.readyOf g with
  | true => simp only [State.wait, hready, hr, if_true, htake]
  | false =>
    cases m with
    | inf => simp only [State.wait, hready, hr, Bool.false_eq_true, if_false, hblock]
    | timed =>
      simp only [State.wait, hready, henv, hr, Bool.false_eq_true, if_false]
      split
      · exact hfinish 0
      · exact hblock _

/-! ## The three units -/

/-- `s` with other registers around the CRSF unit. -/
def State.aroundCrsf (s : State) (b : SbusUnit) (u : IbusUnit) (t : Transceiver) : State := { s with sbus := b, ibus := u, pt := t }

/-- `s` with other registers around the SBUS unit. -/
def State.aroundSbus (s : State) (c : CrsfUnit) (u : IbusUnit) (t : Transceiver) : State := { s with crsf := c, ibus := u, pt := t }

/-- `s` with other registers around the IBUS unit. -/
def State.aroundIbus (s : State) (c : CrsfUnit) (b : SbusUnit) (t : Transceiver) : State := { s with crsf := c, sbus := b, pt := t }

theorem exec_aroundCrsf (h : exec i s = .next s') (hi : isCrsf i = true) (b : SbusUnit) (u : IbusUnit) (t : Transceiver) :
    exec i (s.aroundCrsf b u t) = .next (s'.aroundCrsf b u t) := by
  cases i with
  | crsfFeed x =>
    obtain ⟨v, r, hv, rfl⟩ := State.endCrsf_next h
    exact congrArg (s.aroundCrsf b u t).endCrsf hv
  | crsfUnpack =>
    obtain ⟨v, r, hv, rfl⟩ := State.endCrsf_next h
    exact congrArg (s.aroundCrsf b u t).endCrsf hv
  | crsfStatus sel =>
    cases h
    exact congrArg _ (State.readStatus_comm (f := (·.aroundCrsf b u t)) (fun _ => rfl) (fun _ => rfl) _)
  | crsfWait m =>
    cases h
    exact congrArg _ (State.wait_comm (f := (·.aroundCrsf b u t)) rfl rfl (fun _ => rfl) (fun _ => rfl) (fun _ => rfl) m)
  | crsfChraw | crsfChpwm | crsfTake => cases h; rfl
  | _ => cases hi

theorem exec_aroundSbus (h : exec i s = .next s') (hi : isSbus i = true) (c : CrsfUnit) (u : IbusUnit) (t : Transceiver) :
    exec i (s.aroundSbus c u t) = .next (s'.aroundSbus c u t) := by
  cases i with
  | sbusFeed x =>
    obtain ⟨v, r, hv, rfl⟩ := State.endSbus_next h
    exact congrArg (s.aroundSbus c u t).endSbus hv
  | sbusStatus sel =>
    cases h
    exact congrArg _ (State.readStatus_comm (f := (·.aroundSbus c u t)) (fun _ => rfl) (fun _ => rfl) _)
  | sbusWait m =>
    cases h
    exact congrArg _ (State.wait_comm (f := (·.aroundSbus c u t)) rfl rfl (fun _ => rfl) (fun _ => rfl) (fun _ => rfl) m)
  | sbusUnpack | sbusChraw | sbusChpwm | sbusTake => cases h; rfl
  | _ => cases hi

theorem exec_aroundIbus (h : exec i s = .next s') (hi : isIbus i = true) (c : CrsfUnit) (b : SbusUnit) (t : Transceiver) :
    exec i (s.aroundIbus c b t) = .next (s'.aroundIbus c b t) := by
  cases i with
  | ibusFeed x =>
    obtain ⟨v, r, hv, rfl⟩ := State.endIbus_next h
    exact congrArg (s.aroundIbus c b t).endIbus hv
  | ibusUnpack =>
    obtain ⟨v, r, hv, rfl⟩ := State.endIbus_next h
    exact congrArg (s.aroundIbus c b t).endIbus hv
  | ibusStatus sel =>
    cases h
    exact congrArg _ (State.readStatus_comm (f := (·.aroundIbus c b t)) (fun _ => rfl) (fun _ => rfl) _)
  | ibusWait m =>
    cases h
    exact congrArg _ (State.wait_comm (f := (·.aroundIbus c b t)) rfl rfl (fun _ => rfl) (fun _ => rfl) (fun _ => rfl) m)
  | ibusChraw | ibusChpwm | ibusTake | ibusGetmodel => cases h; rfl
  | _ => cases hi

/-- Settles O14: each unit's commands commute with replacing what stands around the unit. -/
theorem unitsDoNotReadEachOther : Obligations.UnitsDoNotReadEachOther := by
  intro i s s' c b u t h
  exact ⟨fun hi => exec_aroundCrsf h hi b u t, fun hi => exec_aroundSbus h hi c u t, fun hi => exec_aroundIbus h hi c b t⟩

end Sys2Proof.Machine
end

section
/-! The STATUS commands (spec/10_state.md R38, R39): the register each selector names, and the refusal of every other selector. -/

namespace Sys2Proof.Machine

/-- A STATUS command whose selector names no register is refused (R39). -/
theorem State.failed_readStatus_none {s : State} {o : Option Word} (h : o = none) : Failed s .illegal (s.readStatus o) := by
  rw [h]; exact ⟨_, rfl⟩

theorem crsfStatusValue_eq_none (u : CrsfUnit) {sel : Byte} (h : sel = 2 ∨ 4 ≤ sel.toNat) : crsfStatusValue u sel = none := by
  obtain ⟨h0, h1, h3⟩ : sel ≠ 0 ∧ sel ≠ 1 ∧ sel ≠ 3 := by bv_omega
  simp only [crsfStatusValue, h0, h1, h3, if_false]

theorem ibusStatusValue_eq_none (u : IbusUnit) {sel : Byte} (h : sel = 2 ∨ 4 ≤ sel.toNat) : ibusStatusValue u sel = none := by
  obtain ⟨h0, h1, h3⟩ : sel ≠ 0 ∧ sel ≠ 1 ∧ sel ≠ 3 := by bv_omega
  simp only [ibusStatusValue, h0, h1, h3, if_false]

theorem sbusStatusValue_eq_none (u : SbusUnit) {sel : Byte} (h : 4 ≤ sel.toNat) : sbusStatusValue u sel = none := by
  obtain ⟨h0, h1, h2, h3⟩ : sel ≠ 0 ∧ sel ≠ 1 ∧ sel ≠ 2 ∧ sel ≠ 3 := by bv_omega
  simp only [sbusStatusValue, h0, h1, h2, h3, if_false]

/-- Settles O20: the selectors with a register by the register's value, SR by its fields (`statusWord_toNat`), the others by
`failed_readStatus_none`. -/
theorem statusReadout : Obligations.StatusReadout := by
  intro s
  refine ⟨⟨s.crsf.status, rfl, ?crsfFields⟩, ⟨s.sbus.status, rfl, ?sbusFields⟩, ⟨s.ibus.status, rfl, ?ibusFields⟩,
    rfl, rfl, rfl, rfl, rfl, rfl, rfl, fun sel h => ?noRegister, fun sel h => ?noSbusRegister⟩
  case crsfFields => exact statusWord_toNat s.crsf.dec s.crsf.target 0
  case sbusFields => exact statusWord_toNat s.sbus.dec (BitVec.ofNat 8 sbusFrame) 0
  case ibusFields =>
    refine (statusWord_toNat s.ibus.dec s.ibus.size (modelBits s.ibus.model)).trans ?_
    cases s.ibus.model <;> rfl
  case noRegister =>
    exact ⟨_, _, rfl, State.failed_readStatus_none (crsfStatusValue_eq_none s.crsf h), rfl,
      State.failed_readStatus_none (ibusStatusValue_eq_none s.ibus h)⟩
  case noSbusRegister => exact ⟨_, rfl, State.failed_readStatus_none (sbusStatusValue_eq_none s.sbus h)⟩

end Sys2Proof.Machine
end

section
/-! The values after reset (spec/70_reset_and_hazards.md R441). -/

namespace Sys2Proof.Machine

/-- A decoder's registers and buffers after reset (R34). -/
theorem Decoder.reset_values :
    Decoder.reset.idx = 0 ∧ Decoder.reset.slen = 0 ∧ Decoder.reset.start = 0 ∧ Decoder.reset.dropped = 0 ∧
    Decoder.reset.rxcount = 0 ∧ Decoder.reset.empty = true ∧ Decoder.reset.ready = false ∧
    ∀ i, Decoder.reset.work.read i = 0 ∧ Decoder.reset.stable.read i = 0 :=
  ⟨rfl, rfl, rfl, rfl, rfl, rfl, rfl, fun _ => ⟨rfl, rfl⟩⟩

/-- The three slots other than the broadcast slot start alike (R41). -/
theorem Transceiver.reset_slot {p : PeerId} (h : p ∈ [PeerId.pri, .sec, .rsv]) : Transceiver.reset.slot p = Slot.resetOther := by
  cases p with
  | bcast => simp at h
  | pri | sec | rsv => rfl

/-- Every slot's buffer starts empty (R41). -/
theorem Transceiver.reset_slot_buf (p : PeerId) : (Transceiver.reset.slot p).buf = [] := by cases p <;> rfl

/-- Settles O11: the table of R441 row by row. -/
theorem resetValues : Obligations.ResetValues := by
  refine ⟨fun d hd => ?decoders, fun _ => Vector.getElem_replicate _, fun _ => Vector.getElem_replicate _,
    fun _ => Vector.getElem_replicate _, rfl, rfl, rfl, rfl, rfl, rfl, rfl, rfl, rfl, rfl, rfl,
    ⟨rfl, rfl, rfl, rfl, rfl, rfl, rfl, rfl⟩,
    fun p hp => ?slots, fun p i => ?buffers, rfl, rfl, rfl, rfl, rfl, rfl, rfl⟩
  case decoders =>
    obtain rfl : d = Decoder.reset := by simpa [State.reset, CrsfUnit.reset, SbusUnit.reset, IbusUnit.reset] using hd
    exact Decoder.reset_values
  case slots =>
    have hslot : State.reset.pt.slot p = Slot.resetOther := Transceiver.reset_slot hp
    rw [hslot]
    exact ⟨rfl, rfl, rfl, rfl, rfl, rfl, rfl, rfl⟩
  case buffers => exact congrArg (Memory.read · i) (Transceiver.reset_slot_buf p)

end Sys2Proof.Machine
end

section
/-! What reaches the consumer of a buffer (spec/20_memory.md R83, R92): a FEED either leaves STABLE and READY as they were or
publishes a frame, a PT.RX that changes a peer's buffer raises its signal, and only the signal's own TAKE or WAIT clears it. -/

namespace Sys2Proof.Machine

/-! ## What the units' operations do to STABLE and READY -/

/-- What a FEED leaves for the consumer: STABLE and READY as they were, or a published frame (R83). -/
def Decoder.KeepsOrPublishes (d d' : Decoder) : Prop :=
  (d'.stable = d.stable ∧ d'.ready = d.ready) ∨
  (d'.empty = false ∧ d'.ready = true ∧ d'.rxcount = d.rxcount + 1 ∧ d'.idx = 0)

theorem Decoder.KeepsOrPublishes.ready {d d' : Decoder} (h : d.KeepsOrPublishes d') (hr : d.ready = true) : d'.ready = true := by
  obtain ⟨-, e⟩ | ⟨-, e, -, -⟩ := h
  · exact e.trans hr
  · exact e

theorem Decoder.KeepsOrPublishes.published {d d' : Decoder} (h : d.KeepsOrPublishes d') (hs : d'.stable ≠ d.stable) :
    d'.empty = false ∧ d'.ready = true ∧ d'.rxcount = d.rxcount + 1 ∧ d'.idx = 0 :=
  h.resolve_left fun e => hs e.1

theorem crsfFeed_keepsOrPublishes {u u' : CrsfUnit} {b : Byte} {now : Word} {r : Bool} (h : crsfFeed u b now = .ok (u', r)) :
    u.dec.KeepsOrPublishes u'.dec := by
  obtain ⟨-, -, -, rfl⟩ | ⟨-, -, -, rfl⟩ | ⟨-, -, -, rfl⟩ | ⟨-, -, -, rfl⟩ | ⟨-, -, hp⟩ := crsfFeed_cases h
  case inr.inr.inr.inr =>
    obtain ⟨-, ⟨-, -, rfl⟩ | ⟨-, -, -, rfl⟩⟩ := crsfPayload_cases hp
    · exact .inl ⟨Decoder.resync_stable .., Decoder.resync_ready ..⟩
    · exact .inr ⟨rfl, rfl, congrArg (· + 1) (Decoder.resync_rxcount ..), rfl⟩
  all_goals exact .inl ⟨Decoder.resync_stable .., Decoder.resync_ready ..⟩

theorem sbusFeed_keepsOrPublishes {u u' : SbusUnit} {b : Byte} {now : Word} {r : Bool} (h : sbusFeed u b now = .ok (u', r)) :
    u.dec.KeepsOrPublishes u'.dec := by
  obtain ⟨-, -, -, rfl⟩ | ⟨-, -, -, rfl⟩ | ⟨-, hd⟩ := sbusFeed_cases h
  case inr.inr =>
    obtain ⟨-, ⟨-, -, rfl⟩ | ⟨-, -, -, rfl⟩ | ⟨-, -, -, rfl⟩⟩ := sbusData_cases hd
    · exact .inl ⟨Decoder.resync_stable .., Decoder.resync_ready ..⟩
    · exact .inl ⟨Decoder.resync_stable .., Decoder.resync_ready ..⟩
    · exact .inr ⟨rfl, rfl, congrArg (· + 1) (Decoder.resync_rxcount ..), rfl⟩
  all_goals exact .inl ⟨Decoder.resync_stable .., Decoder.resync_ready ..⟩

theorem ibusFeed_keepsOrPublishes {u u' : IbusUnit} {b : Byte} {now : Word} {r : Bool} (h : ibusFeed u b now = .ok (u', r)) :
    u.dec.KeepsOrPublishes u'.dec := by
  obtain ⟨-, -, v, -, rfl⟩ | ⟨-, -, -, rfl⟩ | ⟨-, hd⟩ := ibusFeed_cases h
  case inr.inr =>
    obtain ⟨-, ⟨-, -, rfl⟩ | ⟨-, -, -, rfl⟩ | ⟨-, -, -, -, rfl⟩⟩ := ibusData_cases hd
    · exact .inl ⟨Decoder.resync_stable .., Decoder.resync_ready ..⟩
    · exact .inl ⟨Decoder.resync_stable .., Decoder.resync_ready ..⟩
    · exact .inr ⟨rfl, rfl, congrArg (· + 1) (Decoder.resync_rxcount ..), rfl⟩
  all_goals exact .inl ⟨Decoder.resync_stable .., Decoder.resync_ready ..⟩

/-- UNPACK reads STABLE and leaves it (R180). -/
theorem crsfUnpack_frame {u u' : CrsfUnit} {r : Bool} (h : crsfUnpack u = .ok (u', r)) :
    u'.dec.stable = u.dec.stable ∧ u'.dec.ready = u.dec.ready := by
  obtain ⟨-, -, rfl⟩ | ⟨-, -, rfl⟩ | ⟨-, -, -, -, -, rfl⟩ := crsfUnpack_cases h <;> exact ⟨rfl, rfl⟩

/-- As `crsfUnpack_frame`, for SBUS (R210). -/
theorem sbusUnpack_frame {u u' : SbusUnit} {r : Bool} (h : sbusUnpack u = (u', r)) :
    u'.dec.stable = u.dec.stable ∧ u'.dec.ready = u.dec.ready := by
  obtain ⟨-, e⟩ | ⟨-, e⟩ := sbusUnpack_cases u <;> cases e.symm.trans h <;> exact ⟨rfl, rfl⟩

/-- As `crsfUnpack_frame`, for IBUS (R240). -/
theorem ibusUnpack_frame {u u' : IbusUnit} {r : Bool} (h : ibusUnpack u = .ok (u', r)) :
    u'.dec.stable = u.dec.stable ∧ u'.dec.ready = u.dec.ready := by
  obtain ⟨-, -, rfl⟩ | ⟨-, -, rfl⟩ | ⟨-, -, -, rfl⟩ := ibusUnpack_cases h <;> exact ⟨rfl, rfl⟩

/-! ## What the transceiver's operations do to the buffers and signals of the two peers -/

/-- Binding (R291) gives the primary an address and nothing else. -/
theorem Transceiver.bind_frame (t : Transceiver) (src : Addr) :
    (t.bind src).pri.buf = t.pri.buf ∧ (t.bind src).sec = t.sec ∧ (t.bind src).readyPri = t.readyPri ∧
    (t.bind src).readySec = t.readySec := by
  obtain ⟨-, -, -, -, e⟩ | ⟨-, e⟩ := Transceiver.bind_cases t src <;> rw [e] <;> exact ⟨rfl, rfl, rfl, rfl⟩

/-- What PT.RX does to each peer (R293, R295): its buffer and its signal stay, or the signal is raised. -/
theorem ptReceive_peers {t t' : Transceiver} {src : Addr} {data : List Byte} {tick r : Word}
    (h : ptReceive t src data tick = .ok (t', r)) :
    ((t'.pri.buf = t.pri.buf ∧ t'.readyPri = t.readyPri) ∨ t'.readyPri = true) ∧
    ((t'.sec.buf = t.sec.buf ∧ t'.readySec = t.readySec) ∨ t'.readySec = true) := by
  obtain ⟨hbuf, hsec, hrp, hrs⟩ := t.bind_frame src
  obtain ⟨-, rfl, -⟩ | ⟨-, -, -, k, -, rfl⟩ | ⟨-, -, -, -, k, -, rfl⟩ | ⟨-, -, -, rfl, -⟩ := ptReceive_cases h
  · exact ⟨.inl ⟨rfl, rfl⟩, .inl ⟨rfl, rfl⟩⟩
  · exact ⟨.inr rfl, .inl ⟨congrArg Slot.buf hsec, hrs⟩⟩
  · exact ⟨.inl ⟨hbuf, hrp⟩, .inr rfl⟩
  · exact ⟨.inl ⟨hbuf, hrp⟩, .inl ⟨congrArg Slot.buf hsec, hrs⟩⟩

/-! ## One command -/

variable {i : Instr} {s s' : State}

/-- The TAKE of a signal. -/
def takeInstr : WaitTarget → Instr
  | .crsf => .crsfTake
  | .sbus => .sbusTake
  | .ibus => .ibusTake
  | .peer p => .ptTake p

/-- The commands that take a signal are its TAKE and its WAIT (R92). -/
theorem eq_take_or_wait_of_waitsFor {g : WaitTarget} (h : waitsFor i = some g) :
    i = takeInstr g ∨ ∃ m, i = PendingWait.instr ⟨g, m⟩ := by
  cases i with
  | crsfTake | sbusTake | ibusTake | ptTake => cases h; exact .inl rfl
  | crsfWait | sbusWait | ibusWait | ptWait => cases h; exact .inr ⟨_, rfl⟩
  | _ => cases h

/-- Taking one signal leaves the others. -/
theorem State.readyOf_clearReady_of_ne (s : State) {t g : WaitTarget} (h : t ≠ g) :
    (s.clearReady t).readyOf g = s.readyOf g := by
  cases g with
  | crsf => exact congrArg (·.dec.ready) (s.clearReady_crsf_of_ne h)
  | sbus => exact congrArg (·.dec.ready) (s.clearReady_sbus_of_ne h)
  | ibus => exact congrArg (·.dec.ready) (s.clearReady_ibus_of_ne h)
  | peer p =>
    cases p with
    | pri => exact s.clearReady_readyPri_of_ne h
    | sec => exact s.clearReady_readySec_of_ne h
    | bcast | rsv => rfl

/-- A unit's registers rewritten with READY kept leave every set signal set. -/
theorem State.readyOf_replace_crsf {u : CrsfUnit} {r : Option Reply} {g : WaitTarget}
    (h : s.crsf.dec.ready = true → u.dec.ready = true) (hr : s.readyOf g = true) :
    State.readyOf { s with crsf := u, reply := r } g = true := by
  cases g with
  | crsf => exact h hr
  | peer p => cases p <;> exact hr
  | _ => exact hr

/-- As `State.readyOf_replace_crsf`, for SBUS. -/
theorem State.readyOf_replace_sbus {u : SbusUnit} {r : Option Reply} {g : WaitTarget}
    (h : s.sbus.dec.ready = true → u.dec.ready = true) (hr : s.readyOf g = true) :
    State.readyOf { s with sbus := u, reply := r } g = true := by
  cases g with
  | sbus => exact h hr
  | peer p => cases p <;> exact hr
  | _ => exact hr

/-- As `State.readyOf_replace_crsf`, for IBUS. -/
theorem State.readyOf_replace_ibus {u : IbusUnit} {r : Option Reply} {g : WaitTarget}
    (h : s.ibus.dec.ready = true → u.dec.ready = true) (hr : s.readyOf g = true) :
    State.readyOf { s with ibus := u, reply := r } g = true := by
  cases g with
  | ibus => exact h hr
  | peer p => cases p <;> exact hr
  | _ => exact hr

/-- A set signal stays set through every command that does not take it (R92, R295, R362). -/
theorem Effect.readyOf_kept (h : Effect i s s') {g : WaitTarget} (hr : s.readyOf g = true) (hg : waitsFor i ≠ some g) :
    s'.readyOf g = true := by
  cases h with
  | take _ _ t v ht =>
    have hne : t ≠ g := fun e => hg (e ▸ ht)
    exact (s.readyOf_clearReady_of_ne hne).trans hr
  | crsfFeed _ b u r hu => exact State.readyOf_replace_crsf (crsfFeed_keepsOrPublishes hu).ready hr
  | crsfUnpack _ u r hu => exact State.readyOf_replace_crsf (crsfUnpack_frame hu).2.trans hr
  | sbusFeed _ b u r hu => exact State.readyOf_replace_sbus (sbusFeed_keepsOrPublishes hu).ready hr
  | sbusUnpack _ u r hu => exact State.readyOf_replace_sbus (sbusUnpack_frame hu).2.trans hr
  | ibusFeed _ b u r hu => exact State.readyOf_replace_ibus (ibusFeed_keepsOrPublishes hu).ready hr
  | ibusUnpack _ u r hu => exact State.readyOf_replace_ibus (ibusUnpack_frame hu).2.trans hr
  | rx _ src data t r ht =>
    obtain ⟨hpri, hsec⟩ := ptReceive_peers ht
    cases g with
    | peer p =>
      cases p with
      | pri => exact hpri.elim (fun e => e.2.trans hr) id
      | sec => exact hsec.elim (fun e => e.2.trans hr) id
      | bcast | rsv => exact hr
    | _ => exact hr
  | _ => exact hr

/-- Settles O15: a signal found cleared was taken (`Effect.readyOf_kept`), and what takes it is its TAKE or its WAIT. -/
theorem readyClearedOnlyByTakeOrWait : Obligations.ReadyClearedOnlyByTakeOrWait := by
  intro i s s' h
  have cleared (g : WaitTarget) (hr : s.readyOf g = true) (hc : s'.readyOf g = false) :
      i = takeInstr g ∨ ∃ m, i = PendingWait.instr ⟨g, m⟩ := by
    refine eq_take_or_wait_of_waitsFor (by_contra fun hg => ?_)
    simp [(exec_effect h).readyOf_kept hr hg] at hc
  exact ⟨cleared .crsf, cleared .sbus, cleared .ibus, cleared (.peer .pri), cleared (.peer .sec)⟩

/-- STABLE of the CRSF unit is written by its FEED alone. -/
theorem Effect.crsf_stable (h : Effect i s s') :
    s'.crsf.dec.stable = s.crsf.dec.stable ∨ ∃ b, i = .crsfFeed b ∧ s.crsf.dec.KeepsOrPublishes s'.crsf.dec := by
  cases h with
  | take _ _ t v _ =>
    obtain e | e := s.clearReady_crsf t <;> exact .inl (congrArg (·.dec.stable) e)
  | crsfFeed _ b u r hu => exact .inr ⟨b, rfl, crsfFeed_keepsOrPublishes hu⟩
  | crsfUnpack _ u r hu => exact .inl (crsfUnpack_frame hu).1
  | _ => exact .inl rfl

/-- As `Effect.crsf_stable`, for SBUS. -/
theorem Effect.sbus_stable (h : Effect i s s') :
    s'.sbus.dec.stable = s.sbus.dec.stable ∨ ∃ b, i = .sbusFeed b ∧ s.sbus.dec.KeepsOrPublishes s'.sbus.dec := by
  cases h with
  | take _ _ t v _ =>
    obtain e | e := s.clearReady_sbus t <;> exact .inl (congrArg (·.dec.stable) e)
  | sbusFeed _ b u r hu => exact .inr ⟨b, rfl, sbusFeed_keepsOrPublishes hu⟩
  | sbusUnpack _ u r hu => exact .inl (sbusUnpack_frame hu).1
  | _ => exact .inl rfl

/-- As `Effect.crsf_stable`, for IBUS. -/
theorem Effect.ibus_stable (h : Effect i s s') :
    s'.ibus.dec.stable = s.ibus.dec.stable ∨ ∃ b, i = .ibusFeed b ∧ s.ibus.dec.KeepsOrPublishes s'.ibus.dec := by
  cases h with
  | take _ _ t v _ =>
    obtain e | e := s.clearReady_ibus t <;> exact .inl (congrArg (·.dec.stable) e)
  | ibusFeed _ b u r hu => exact .inr ⟨b, rfl, ibusFeed_keepsOrPublishes hu⟩
  | ibusUnpack _ u r hu => exact .inl (ibusUnpack_frame hu).1
  | _ => exact .inl rfl

/-- Settles O16: what changed STABLE is a FEED, and a FEED that changes it publishes (`Decoder.KeepsOrPublishes`). -/
theorem stableChangesOnlyAtPublish : Obligations.StableChangesOnlyAtPublish := by
  intro i s s' h
  have he := exec_effect h
  refine ⟨fun hs => ?crsf, fun hs => ?sbus, fun hs => ?ibus⟩
  case crsf =>
    obtain ⟨b, hi, hd⟩ := he.crsf_stable.resolve_left hs
    exact ⟨⟨b, hi⟩, hd.published hs⟩
  case sbus =>
    obtain ⟨b, hi, hd⟩ := he.sbus_stable.resolve_left hs
    exact ⟨⟨b, hi⟩, hd.published hs⟩
  case ibus =>
    obtain ⟨b, hi, hd⟩ := he.ibus_stable.resolve_left hs
    exact ⟨⟨b, hi⟩, hd.published hs⟩

/-- A slot given an address keeps its buffer (R287). -/
theorem Slot.setAddr_buf (k : Slot) (o : Option Addr) : (k.setAddr o).buf = k.buf := by cases o <;> rfl

/-- A command that changes a peer's buffer leaves that peer's signal set (R295). -/
theorem Effect.peer_buffers (h : Effect i s s') :
    (s'.pt.pri.buf = s.pt.pri.buf ∨ s'.pt.readyPri = true) ∧ (s'.pt.sec.buf = s.pt.sec.buf ∨ s'.pt.readySec = true) := by
  cases h with
  | take _ _ t v _ =>
    obtain ⟨a, b, e⟩ := State.clearReady_pt s t
    rw [State.finish_pt, e]
    exact ⟨.inl rfl, .inl rfl⟩
  | addSecondary _ enc ch cap o _ _ => exact ⟨.inl rfl, .inl (Slot.setAddr_buf _ o)⟩
  | rx _ src data t r ht => exact (ptReceive_peers ht).imp (Or.imp_left And.left) (Or.imp_left And.left)
  | _ => exact ⟨.inl rfl, .inl rfl⟩

/-- A send of an announcement leaves both slots as they are (R298). -/
theorem ptBcastIdSend_slots (s : State) : (ptBcastIdSend s).pt.pri = s.pt.pri ∧ (ptBcastIdSend s).pt.sec = s.pt.sec := by
  obtain ⟨-, e⟩ | ⟨-, -, e⟩ | ⟨-, -, e⟩ := ptBcastIdSend_cases s <;> rw [e] <;> exact ⟨rfl, rfl⟩

/-- A step that changes a peer's buffer leaves that peer's signal set: a turn with no command and a send write no buffer. -/
theorem step_peer_buffers (h : step s = .next s') :
    (s'.pt.pri.buf = s.pt.pri.buf ∨ s'.pt.readyPri = true) ∧ (s'.pt.sec.buf = s.pt.sec.buf ∨ s'.pt.readySec = true) := by
  obtain ⟨⟨-, -, -, e⟩, -⟩ | ⟨s0, ⟨-, -, -, e⟩, -, -, rfl⟩ | ⟨s0, i, ⟨-, -, -, e⟩, -, -, he⟩ |
    ⟨s0, i, ⟨-, -, -, e⟩, -, -, he⟩ := step_effect h
  · rw [e]; exact ⟨.inl rfl, .inl rfl⟩
  · obtain ⟨hpri, hsec⟩ := ptBcastIdSend_slots s0
    rw [hpri, hsec, e]
    exact ⟨.inl rfl, .inl rfl⟩
  · exact e ▸ he.peer_buffers
  · exact e ▸ he.peer_buffers

/-- Settles O17, by what one step does to the two buffers (`step_peer_buffers`). -/
theorem peerBufferChangeSetsReady : Obligations.PeerBufferChangeSetsReady := by
  intro s s' h
  obtain ⟨hpri, hsec⟩ := step_peer_buffers h
  exact ⟨hpri.resolve_left, hsec.resolve_left⟩

end Sys2Proof.Machine
end

section
/-! The bit stream of a byte string (spec/00_scope.md R11, spec/20_memory.md R81) and the channel fields the decoders extract from
it (spec/41_crsf.md R181, spec/42_sbus.md R210 to R212). -/

namespace Sys2Proof.Machine

/-! ## The stream -/

/-- Bit k of the stream is bit k mod 8 of byte k/8 (R11). -/
theorem testBit_streamNat (bs : List Byte) (k : Nat) (h : k / 8 < bs.length) :
    (streamNat bs).testBit k = bs[k / 8].getLsbD (k % 8) := by
  induction bs generalizing k with
  | nil => simp at h
  | cons b bs ih =>
    have hcons : streamNat (b :: bs) = 2 ^ 8 * streamNat bs + b.toNat := Nat.add_comm _ _
    rw [hcons, Nat.testBit_two_pow_mul_add _ b.isLt]
    split
    · next hk => simp [Nat.div_eq_of_lt hk, Nat.mod_eq_of_lt hk, BitVec.testBit_toNat]
    · next hk =>
      obtain ⟨k, rfl⟩ := Nat.exists_eq_add_of_le' (Nat.le_of_not_lt hk)
      have hdiv : (k + 8) / 8 = k / 8 + 1 := Nat.add_div_right k (by decide)
      simp only [hdiv, List.length_cons, Nat.add_lt_add_iff_right] at h
      simp only [Nat.add_sub_cancel, ih k h, hdiv, List.getElem_cons_succ, Nat.add_mod_right]

/-- The stream of the bytes that spell a number is that number, cut to their bits. -/
theorem streamNat_natBytes (n w : Nat) : streamNat (natBytes n w) = w % 256 ^ n := by
  induction n generalizing w with
  | zero => simp [natBytes, streamNat, Nat.mod_one]
  | succ n ih =>
    rw [natBytes, streamNat, ih, BitVec.toNat_ofNat, Nat.pow_succ' (m := 256), Nat.mod_mul]

/-! ## Values packed side by side -/

/-- `n` values of `w` bits each, value i in the bits from w·i. -/
theorem sum_packed_lt {n w : Nat} (v : Fin n → BitVec w) : ∑ i, (v i).toNat * 2 ^ (w * i.val) < 2 ^ (w * n) := by
  simpa [pow_mul] using (finFunctionFinEquiv fun i => (v i).toFin).isLt

theorem sum_packed_field {n w : Nat} (v : Fin n → BitVec w) (j : Fin n) :
    (∑ i, (v i).toNat * 2 ^ (w * i.val)) / 2 ^ (w * j.val) % 2 ^ w = (v j).toNat := by
  have h : finFunctionFinEquiv.symm (finFunctionFinEquiv fun i => (v i).toFin) j = (v j).toFin :=
    congrFun (finFunctionFinEquiv.symm_apply_apply _) j
  simp only [pow_mul]
  exact congrArg Fin.val h

/-! ## Channel fields -/

/-- A channel field of sixteen values packed into 22 bytes is the value packed there (R81). -/
theorem packedChannel_packed (v : Fin 16 → BitVec 11) (i : Fin 16) :
    packedChannel (natBytes 22 (∑ i, (v i).toNat * 2 ^ (11 * i.val))) i.val = (v i).setWidth 16 := by
  have hfits : ∑ i, (v i).toNat * 2 ^ (11 * i.val) < 256 ^ 22 := (sum_packed_lt v).trans_eq (by norm_num)
  rw [packedChannel, bits, streamNat_natBytes, Nat.mod_eq_of_lt hfits]
  refine congrArg _ (BitVec.eq_of_toNat_eq ?_)
  rw [BitVec.toNat_ofNat, sum_packed_field v i]

/-- A channel field that lies within the payload by its bits (R81, R11). -/
theorem getLsbD_packedChannel_bytes (f : Memory) {a n i j : Nat} (h : 11 * i + 11 ≤ 8 * n) :
    (packedChannel (f.bytes a n) i).getLsbD j =
      (decide (j < 11) && (f.read (a + (11 * i + j) / 8)).getLsbD ((11 * i + j) % 8)) := by
  rw [packedChannel, bits, BitVec.getLsbD_setWidth, BitVec.getLsbD_ofNat, Nat.testBit_div_two_pow]
  by_cases hj : j < 11
  · have hlen : (j + 11 * i) / 8 < (f.bytes a n).length := by rw [Memory.length_bytes]; omega
    have hj16 : j < 16 := by omega
    rw [testBit_streamNat _ _ hlen, Memory.getElem_bytes, Nat.add_comm j]
    simp [hj, hj16]
  · simp [hj]

/-- A flag channel holds its bit (R212). -/
theorem flagChannel_toNat (b : Byte) (k : Nat) :
    ((BitVec.ofBool (b.getLsbD k)).setWidth 16 : Half).toNat = b.toNat / 2 ^ k % 2 := by
  rw [BitVec.toNat_setWidth_of_le (by decide), BitVec.toNat_ofBool, ← BitVec.testBit_toNat, Nat.toNat_testBit]

theorem crsfChannels_getElem (f : Memory) (i : Fin 16) : (crsfChannels f)[i] = packedChannel (f.bytes 3 22) i.val := by
  simp [crsfChannels]

theorem sbusChannels_getElem_data (f : Memory) {i : Nat} (hi : i < 16) :
    (sbusChannels f)[i]'(Nat.lt_add_right 2 hi) = packedChannel (f.bytes 1 22) i := by
  simp [sbusChannels, hi]

theorem sbusChannels_flag0_toNat (f : Memory) : (sbusChannels f)[16].toNat = (f.read 23).toNat % 2 := by
  have h : (sbusChannels f)[16] = (BitVec.ofBool ((f.read 23).getLsbD 0)).setWidth 16 := Vector.getElem_ofFn _
  rw [h, flagChannel_toNat, pow_zero, Nat.div_one]

theorem sbusChannels_flag1_toNat (f : Memory) : (sbusChannels f)[17].toNat = (f.read 23).toNat / 2 % 2 := by
  have h : (sbusChannels f)[17] = (BitVec.ofBool ((f.read 23).getLsbD 1)).setWidth 16 := Vector.getElem_ofFn _
  rw [h, flagChannel_toNat, pow_one]

/-- Settles O39: both decoders read their channels at the places the values are packed at. -/
theorem packedChannelsRoundTrip : Obligations.PackedChannelsRoundTrip := by
  intro v f
  refine ⟨fun hcrsf i => ?crsf, fun hsbus i => ?sbus⟩
  case crsf => rw [crsfChannels_getElem, hcrsf, packedChannel_packed]
  case sbus => rw [sbusChannels_getElem_data f i.isLt, hsbus, packedChannel_packed]

/-- Settles O43: the channels are `sbusChannels` of the published frame, read bit by bit. -/
theorem sbusUnpackDecodesChannels : Obligations.SbusUnpackDecodesChannels := by
  intro s
  obtain ⟨he, hu⟩ | ⟨he, hu⟩ := sbusUnpack_cases s.sbus
  case inl =>
    refine ⟨fun _ => ?_, fun hfull => by simp [he] at hfull⟩
    exact congrArg (fun x => s.endSbus (.ok x)) hu
  case inr =>
    refine ⟨fun hempty => by simp [he] at hempty,
      fun _ => ⟨sbusChannels s.sbus.dec.stable, fun i j hi => ?data, ?flag0, ?flag1, ?step⟩⟩
    case data =>
      refine (congrArg (·.getLsbD j) (sbusChannels_getElem_data s.sbus.dec.stable hi)).trans ?_
      exact getLsbD_packedChannel_bytes s.sbus.dec.stable (by omega)
    case flag0 => exact sbusChannels_flag0_toNat s.sbus.dec.stable
    case flag1 => exact sbusChannels_flag1_toNat s.sbus.dec.stable
    case step => exact congrArg (fun x => s.endSbus (.ok x)) hu

end Sys2Proof.Machine
end

section
/-! Whole frames (spec/20_memory.md R83, spec/41_crsf.md R171 to R176, spec/42_sbus.md R201 to R205): what each byte of a frame that
arrives in time does, and by induction over its bytes the run of the producer that feeds it. -/

namespace Sys2Proof.Machine

/-! ## Buffers -/

/-- A buffer whose front a string was written to. -/
theorem Memory.read_writeBytes_front {m : Memory} (hw : m.wf = true) (bs : List Byte) (k : Nat) :
    (m.writeBytes 0 bs).read k = if h : k < bs.length then bs[k] else m.read k := by
  split
  · next h => simpa using Memory.read_writeBytes_inside hw bs 0 k h
  · next h => exact Memory.read_writeBytes_outside m bs (.inr (by omega))

/-- A string written to the front reads back whole. -/
theorem Memory.bytes_writeBytes_front {m : Memory} (hw : m.wf = true) (bs : List Byte) :
    (m.writeBytes 0 bs).bytes 0 bs.length = bs := by
  refine List.ext_getElem (Memory.length_bytes ..) fun k _ hk => ?_
  rw [Memory.getElem_bytes, Memory.read_writeBytes_inside hw bs 0 k hk]

/-! ## The decoder's registers -/

/-- The registers after the last bytes `bs` of a frame of `n` bytes are stored from IDX on and the frame is published
(R83, R175, R176, R204, R205). -/
def Decoder.complete (d : Decoder) (bs : List Byte) (n : Byte) : Decoder :=
  { d with
    work := d.work.writeBytes d.idx.toNat bs
    stable := d.stable.writeBytes 0 ((d.work.writeBytes d.idx.toNat bs).bytes 0 n.toNat)
    slen := n, empty := false, ready := true, rxcount := d.rxcount + 1, idx := 0 }

/-- Storing the first of the bytes leaves the rest to complete the frame. -/
theorem Decoder.complete_cons (d : Decoder) (b : Byte) (bs : List Byte) (n : Byte) (h : (d.idx + 1).toNat = d.idx.toNat + 1) :
    ({ d with work := d.work.write d.idx.toNat b, idx := d.idx + 1 } : Decoder).complete bs n = d.complete (b :: bs) n := by
  simp only [Decoder.complete, Memory.writeBytes, h]

/-- A whole frame (R83): its first byte accepted at index 0, the others completing it. -/
theorem Decoder.complete_accept {d : Decoder} (hw : d.work.wf = true) (b : Byte) (bs : List Byte) (now : Word) {n : Byte}
    (hn : (b :: bs).length = n.toNat) :
    (d.accept b now).complete bs n = { d with
      work := d.work.writeBytes 0 (b :: bs), stable := d.stable.writeBytes 0 (b :: bs)
      slen := n, start := now, empty := false, ready := true, rxcount := d.rxcount + 1, idx := 0 } := by
  have hwork : (d.accept b now).work.writeBytes (d.accept b now).idx.toNat bs = d.work.writeBytes 0 (b :: bs) := rfl
  simp only [Decoder.complete, hwork, ← hn, Memory.bytes_writeBytes_front hw]
  rfl

/-! ## One byte of a CRSF frame -/

theorem crsfFeed_sync {u : CrsfUnit} {b : Byte} (now : Word) (hidx : u.dec.idx = 0) (hb : b = crsfSyncA ∨ b = crsfSyncB) :
    crsfFeed u b now = .ok ({ u with dec := u.dec.accept b now }, false) := by
  simp only [crsfFeed, Decoder.resync_of_idx_zero now crsfBudgetUs hidx, hidx, hb, if_true]

theorem crsfFeed_length {u : CrsfUnit} {b : Byte} {now : Word} (hidx : u.dec.idx = 1)
    (ht : (now - u.dec.start).toNat ≤ crsfBudgetUs.toNat) (hb : ¬ (b < crsfLenMin ∨ crsfLenMax < b)) :
    crsfFeed u b now = .ok ({ u with target := b + 2, dec := { u.dec with work := u.dec.work.write 1 b, idx := 2 } }, false) := by
  have hne : (1 : Byte) ≠ 0 := by decide
  simp only [crsfFeed, Decoder.resync_in_time ht, hidx, hne, if_true, if_false, crsfLength, hb]

theorem crsfFeed_eq_payload {u : CrsfUnit} {b : Byte} {now : Word} (hidx : 2 ≤ u.dec.idx.toNat)
    (ht : (now - u.dec.start).toNat ≤ crsfBudgetUs.toNat) : crsfFeed u b now = crsfPayload u b := by
  have h0 : u.dec.idx ≠ 0 := by bv_omega
  have h1 : u.dec.idx ≠ 1 := by bv_omega
  simp only [crsfFeed, Decoder.resync_in_time ht, h0, h1, if_false]

/-- A payload byte before the last (R175). -/
theorem crsfPayload_more {u : CrsfUnit} (b : Byte) (hidx : u.dec.idx.toNat < crsfBuf) (hmore : u.dec.idx + 1 ≠ u.target) :
    crsfPayload u b =
      .ok ({ u with dec := { u.dec with work := u.dec.work.write u.dec.idx.toNat b, idx := u.dec.idx + 1 } }, false) := by
  simp only [crsfPayload, Decoder.store_eq hidx, hmore, if_false]

/-- The last payload byte (R176). -/
theorem crsfPayload_last {u : CrsfUnit} (b : Byte) (hidx : u.dec.idx.toNat < crsfBuf) (hlast : u.dec.idx + 1 = u.target)
    (htarget : u.target.toNat ≤ crsfBuf) :
    crsfPayload u b = .ok ({ u with dec := u.dec.complete [b] u.target }, true) := by
  simp only [crsfPayload, Decoder.store_eq hidx, hlast, if_true, Decoder.publish_eq htarget]
  rfl

/-! ## One byte of an SBUS frame -/

theorem sbusFeed_start {u : SbusUnit} (now : Word) (hidx : u.dec.idx = 0) :
    sbusFeed u sbusStart now = .ok ({ u with dec := u.dec.accept sbusStart now }, false) := by
  simp only [sbusFeed, Decoder.resync_of_idx_zero now sbusBudgetUs hidx, hidx, if_true]

theorem sbusFeed_eq_data {u : SbusUnit} {b : Byte} {now : Word} (hidx : u.dec.idx ≠ 0)
    (ht : (now - u.dec.start).toNat ≤ sbusBudgetUs.toNat) : sbusFeed u b now = sbusData u b := by
  simp only [sbusFeed, Decoder.resync_in_time ht, hidx, if_false]

/-- A byte before the last (R204). -/
theorem sbusData_more {u : SbusUnit} (b : Byte) (hidx : u.dec.idx.toNat < 24) :
    sbusData u b =
      .ok ({ u with dec := { u.dec with work := u.dec.work.write u.dec.idx.toNat b, idx := u.dec.idx + 1 } }, false) := by
  have hbuf : u.dec.idx.toNat < sbusFrame := Nat.lt_succ_of_lt hidx
  have hmore : u.dec.idx + 1 ≠ BitVec.ofNat 8 sbusFrame := by rw [sbusFrame_byte]; bv_omega
  simp only [sbusData, Decoder.store_eq hbuf, hmore, if_false]

/-- The end byte (R205). -/
theorem sbusData_end {u : SbusUnit} (hidx : u.dec.idx = 24) (hw : u.dec.work.wf = true) :
    sbusData u sbusEnd = .ok ({ u with dec := u.dec.complete [sbusEnd] 25 }, true) := by
  have hnat : u.dec.idx.toNat = 24 := by rw [hidx]; rfl
  have hbuf : u.dec.idx.toNat < sbusFrame := by rw [hnat]; decide
  have hlast : u.dec.idx + 1 = 25#8 := by rw [hidx]; rfl
  have hfits : (25#8).toNat ≤ sbusFrame := by decide
  have hend : (u.dec.work.write u.dec.idx.toNat sbusEnd).read 24 = sbusEnd := hnat ▸ Memory.read_write_same hw 24 sbusEnd
  simp only [sbusData, sbusFrame_byte, Decoder.store_eq hbuf, hlast, hend, ne_eq, not_true_eq_false, if_true, if_false,
    Decoder.publish_eq hfits, Decoder.complete, Memory.writeBytes]
  rfl

/-! ## The runs -/

variable {s : State} {t : Turn} {ts rest : List Turn} {b : Byte} {bs more : List Byte}

/-- P_CRSF's turn with a byte presented, by what its FEED does to the unit (R404). -/
theorem step_crsfByte_feed {u : CrsfUnit} {r : Bool} (hturns : s.turns = t :: ts) (ha : t.agent = .pCrsf)
    (hi : t.env.inline.crsf = false) (hbytes : s.byteInCrsf = b :: bs) (hf : crsfFeed s.crsf b t.env.timeUs = .ok (u, r)) :
    step s = .next { s with
      crsf := u, byteInCrsf := bs, turns := ts, env := t.env, reply := some ⟨.ok, boolWord r, []⟩ } := by
  rw [step_crsfByte hturns ha hi hbytes]
  exact congrArg (State.endCrsf { s.beginTurn t ts with byteInCrsf := bs }) hf

/-- As `step_crsfByte_feed`, for P_SBUS. -/
theorem step_sbusByte_feed {u : SbusUnit} {r : Bool} (hturns : s.turns = t :: ts) (ha : t.agent = .pSbus)
    (hi : t.env.inline.sbus = false) (hbytes : s.byteInSbus = b :: bs) (hf : sbusFeed s.sbus b t.env.timeUs = .ok (u, r)) :
    step s = .next { s with
      sbus := u, byteInSbus := bs, turns := ts, env := t.env, reply := some ⟨.ok, boolWord r, []⟩ } := by
  rw [step_sbusByte hturns ha hi hbytes]
  exact congrArg (State.endSbus { s.beginTurn t ts with byteInSbus := bs }) hf

/-- The last bytes of a CRSF frame (R175, R176), by induction over them. -/
theorem run_crsf_complete (htarget : s.crsf.target.toNat ≤ crsfBuf) (hidx : 2 ≤ s.crsf.dec.idx.toNat)
    (hlen : s.crsf.dec.idx.toNat + (bs.length + 1) = s.crsf.target.toNat) (hbytes : s.byteInCrsf = b :: (bs ++ more))
    (hturns : s.turns = t :: (ts ++ rest)) (hts : ts.length = bs.length)
    (hprod : ∀ x ∈ t :: ts, x.agent = .pCrsf ∧ x.env.inline.crsf = false ∧
      (x.env.timeUs - s.crsf.dec.start).toNat ≤ crsfBudgetUs.toNat) :
    Host.Core.run Sys2Proof.core (bs.length + 1) s = .next { s with
      crsf := { s.crsf with dec := s.crsf.dec.complete (b :: bs) s.crsf.target }
      byteInCrsf := more, turns := rest, env := ((t :: ts).getLast (List.cons_ne_nil t ts)).env
      reply := some ⟨.ok, 1, []⟩ } := by
  induction bs generalizing s t ts b with
  | nil =>
    obtain rfl := List.eq_nil_of_length_eq_zero hts
    obtain ⟨ha, hi, htime⟩ := hprod t List.mem_cons_self
    have hlast : s.crsf.dec.idx + 1 = s.crsf.target := by simp only [List.length_nil] at hlen; bv_omega
    have hfeed := (crsfFeed_eq_payload hidx htime).trans (crsfPayload_last b (by omega) hlast htarget)
    exact run_succ (step_crsfByte_feed hturns ha hi hbytes hfeed) 0
  | cons b' bs ih =>
    obtain ⟨t', ts, rfl⟩ := List.exists_cons_of_length_eq_add_one hts
    obtain ⟨⟨ha, hi, htime⟩, hprod⟩ := List.forall_mem_cons.mp hprod
    simp only [List.length_cons, Nat.add_right_cancel_iff] at hlen hts
    have hnext : (s.crsf.dec.idx + 1).toNat = s.crsf.dec.idx.toNat + 1 := by simp only [crsfBuf] at htarget; bv_omega
    have hmore : s.crsf.dec.idx + 1 ≠ s.crsf.target := by bv_omega
    have hfeed := (crsfFeed_eq_payload hidx htime).trans (crsfPayload_more b (by omega) hmore)
    have hidx' : 2 ≤ (s.crsf.dec.idx + 1).toNat := hnext ▸ Nat.le_succ_of_le hidx
    have hlen' : (s.crsf.dec.idx + 1).toNat + (bs.length + 1) = s.crsf.target.toNat := by rw [hnext]; omega
    have hrest := (run_succ (step_crsfByte_feed hturns ha hi hbytes hfeed) (bs.length + 1)).trans
      (ih htarget hidx' hlen' rfl rfl hts hprod)
    rwa [Decoder.complete_cons _ _ _ _ hnext] at hrest

/-- The bytes of an SBUS frame after the first (R204, R205), by induction over those before the end byte. -/
theorem run_sbus_complete (hw : s.sbus.dec.work.wf = true) (hidx : 1 ≤ s.sbus.dec.idx.toNat)
    (hlen : s.sbus.dec.idx.toNat + bs.length = 24) (hbytes : s.byteInSbus = bs ++ sbusEnd :: more)
    (hturns : s.turns = t :: (ts ++ rest)) (hts : ts.length = bs.length)
    (hprod : ∀ x ∈ t :: ts, x.agent = .pSbus ∧ x.env.inline.sbus = false ∧
      (x.env.timeUs - s.sbus.dec.start).toNat ≤ sbusBudgetUs.toNat) :
    Host.Core.run Sys2Proof.core (bs.length + 1) s = .next { s with
      sbus := { s.sbus with dec := s.sbus.dec.complete (bs ++ [sbusEnd]) 25 }
      byteInSbus := more, turns := rest, env := ((t :: ts).getLast (List.cons_ne_nil t ts)).env
      reply := some ⟨.ok, 1, []⟩ } := by
  have hne : s.sbus.dec.idx ≠ 0 := by bv_omega
  induction bs generalizing s t ts with
  | nil =>
    obtain rfl := List.eq_nil_of_length_eq_zero hts
    obtain ⟨ha, hi, htime⟩ := hprod t List.mem_cons_self
    have hlast : s.sbus.dec.idx = 24 := by simp only [List.length_nil] at hlen; bv_omega
    have hfeed := (sbusFeed_eq_data hne htime).trans (sbusData_end hlast hw)
    exact run_succ (step_sbusByte_feed hturns ha hi hbytes hfeed) 0
  | cons b bs ih =>
    obtain ⟨t', ts, rfl⟩ := List.exists_cons_of_length_eq_add_one hts
    obtain ⟨⟨ha, hi, htime⟩, hprod⟩ := List.forall_mem_cons.mp hprod
    simp only [List.length_cons, Nat.add_right_cancel_iff] at hlen hts
    have hnext : (s.sbus.dec.idx + 1).toNat = s.sbus.dec.idx.toNat + 1 := by bv_omega
    have hidx' : 1 ≤ (s.sbus.dec.idx + 1).toNat := hnext ▸ Nat.le_succ_of_le hidx
    have hlen' : (s.sbus.dec.idx + 1).toNat + bs.length = 24 := by rw [hnext]; omega
    have hne' : s.sbus.dec.idx + 1 ≠ 0 := by bv_omega
    have hfeed := (sbusFeed_eq_data hne htime).trans (sbusData_more b (by omega))
    have hrest := (run_succ (step_sbusByte_feed hturns ha hi hbytes hfeed) (bs.length + 1)).trans
      (ih (Memory.write_wf hw _ b) hidx' hlen' rfl rfl hts hprod hne')
    rwa [Decoder.complete_cons _ _ _ _ hnext] at hrest

/-- Settles O36: the sync and the length byte, then `run_crsf_complete`; the frame is what was written to the front of both
buffers. -/
theorem crsfFrameIsPublished : Obligations.CrsfFrameIsPublished := by
  intro s sync len body more t0 ts rest hidx hwork hstable hsync hmin hmax hbody hbytes hturns hts hprod
  obtain ⟨b, bs, rfl⟩ := List.exists_cons_of_length_pos (l := body) (by omega)
  obtain ⟨t1, ts, rfl⟩ := List.exists_cons_of_length_eq_add_one hts
  obtain ⟨t2, ts, rfl⟩ := List.exists_cons_of_length_eq_add_one (Nat.add_right_cancel hts)
  obtain ⟨⟨ha0, hi0, -⟩, hprod⟩ := List.forall_mem_cons.mp hprod
  obtain ⟨⟨ha1, hi1, htime1⟩, hprod⟩ := List.forall_mem_cons.mp hprod
  simp only [List.length_cons, Nat.add_right_cancel_iff] at hts hbody
  have htarget : (len + 2).toNat = len.toNat + 2 := by bv_omega
  have hlen : ¬ (len < crsfLenMin ∨ crsfLenMax < len) := by simp only [crsfLenMin, crsfLenMax]; bv_omega
  have hframe : (sync :: len :: b :: bs).length = (len + 2).toNat := by simp only [List.length_cons]; omega
  have hfits : (len + 2).toNat ≤ crsfBuf := by simp only [crsfBuf]; omega
  have hrest : (2 : Byte).toNat + (bs.length + 1) = (len + 2).toNat := (Nat.add_comm 2 _).trans (hbody ▸ htarget.symm)
  refine ⟨_, _, Memory.read_writeBytes_front hwork _, Memory.read_writeBytes_front hstable _, ?_⟩
  calc Host.Core.run Sys2Proof.core ((b :: bs).length + 2) s
    _ = _ := run_succ (step_crsfByte_feed hturns ha0 hi0 hbytes (crsfFeed_sync _ hidx hsync)) _
    _ = _ := run_succ (step_crsfByte_feed rfl ha1 hi1 rfl (crsfFeed_length rfl htime1 hlen)) _
    _ = _ := run_crsf_complete hfits (Nat.le_refl 2) hrest rfl rfl hts hprod
    _ = _ := by
      rw [← Decoder.complete_accept hwork sync (len :: b :: bs) t0.env.timeUs hframe]
      rfl

/-- Settles O42: the start byte, then `run_sbus_complete`; the frame is what was written to the front of both buffers. -/
theorem sbusFrameIsPublished : Obligations.SbusFrameIsPublished := by
  intro s body more t0 ts rest hidx hwork hstable hbody hbytes hturns hts hprod
  obtain ⟨t1, ts, rfl⟩ := List.exists_cons_of_length_eq_add_one hts
  obtain ⟨⟨ha0, hi0, -⟩, hprod⟩ := List.forall_mem_cons.mp hprod
  have hts : ts.length = body.length := (Nat.add_right_cancel hts).trans hbody.symm
  have hframe : (sbusStart :: (body ++ [sbusEnd])).length = (25 : Byte).toNat := by simp [hbody]
  have hrest : (1 : Byte).toNat + body.length = 24 := by rw [hbody]; rfl
  refine ⟨_, _, Memory.read_writeBytes_front hwork _, Memory.read_writeBytes_front hstable _, ?_⟩
  calc Host.Core.run Sys2Proof.core 25 s
    _ = Host.Core.run Sys2Proof.core (body.length + 2) s := by rw [hbody]
    _ = _ := run_succ (step_sbusByte_feed hturns ha0 hi0 hbytes (sbusFeed_start _ hidx)) _
    _ = _ := run_sbus_complete (Memory.write_wf hwork 0 sbusStart) (Nat.le_refl 1) hrest rfl rfl hts hprod
    _ = _ := by
      rw [Decoder.complete_accept hwork sbusStart (body ++ [sbusEnd]) t0.env.timeUs hframe]
      rfl

end Sys2Proof.Machine
end

section
/-! The commands of CMD as bytes (spec/30_encoding.md R100 to R110): for each format, the words and data strings it reads as a
command, written as the encoder writes them; from these, `decode` and `encode` undo each other. -/

namespace Sys2Proof

variable {w : CmdWord} {data : List Byte} {i j : Instr}

/-! ## What each format reads as a command -/

/-- A format's must-be-zero check lets a command through exactly where it holds (R111). -/
theorem ite_error_eq_ok_iff {c : Prop} [Decidable c] {x : Except Illegal Instr} {e : Illegal} :
    (if c then x else .error e) = .ok i ↔ c ∧ x = .ok i := by
  split_ifs with h <;> simp [h]

theorem formatN_eq_ok_iff : formatN w j = .ok i ↔ (w.hi = 0 ∧ w.mid = 0 ∧ w.lo = 0) ∧ j = i := by
  rw [formatN, ite_error_eq_ok_iff, Except.ok.injEq]

theorem formatB_eq_ok_iff {f : Byte → Instr} : formatB w f = .ok i ↔ (w.hi = 0 ∧ w.mid = 0) ∧ f w.lo = i := by
  rw [formatB, ite_error_eq_ok_iff, Except.ok.injEq]

/-- A wait mode is read from the byte that spells it, and from no other (R102, R104). -/
theorem waitModeOfByte_map_eq_ok_iff {b : Byte} {f : WaitMode → Instr} :
    (waitModeOfByte b).map f = .ok i ↔ ∃ t, b = waitModeByte t ∧ f t = i := by
  constructor
  · intro h
    cases hb : waitModeOfByte b with
    | error e => simp [hb, Except.map] at h
    | ok t => exact ⟨t, (waitModeByte_of_ok hb).symm, by simpa [hb, Except.map] using h⟩
  · rintro ⟨t, rfl, rfl⟩
    rw [waitModeOfByte_byte]
    rfl

theorem formatBWait_eq_ok_iff {f : WaitMode → Instr} :
    formatBWait w f = .ok i ↔ (w.hi = 0 ∧ w.mid = 0) ∧ ∃ t, w.lo = waitModeByte t ∧ f t = i := by
  rw [formatBWait, ite_error_eq_ok_iff, waitModeOfByte_map_eq_ok_iff]

theorem formatC_eq_ok_iff {f : Byte → Byte → Instr} : formatC w f = .ok i ↔ w.hi = 0 ∧ f w.mid w.lo = i := by
  rw [formatC, ite_error_eq_ok_iff, Except.ok.injEq]

theorem operandXZero_eq_ok_iff {x : Byte} : operandXZero j x = .ok i ↔ x = 0 ∧ j = i := by
  rw [operandXZero, ite_error_eq_ok_iff, Except.ok.injEq]

theorem formatP_eq_ok_iff {f : PeerId → Byte → Except Illegal Instr} :
    formatP w f = .ok i ↔ w.hi = 0 ∧ ∃ p, w.mid = 0#6 ++ peerBits p ∧ f p w.lo = .ok i := by
  rw [formatP, ite_error_eq_ok_iff]
  constructor
  · rintro ⟨⟨hhi, hmid⟩, hf⟩
    exact ⟨hhi, _, (peerLane_of_fields w.mid hmid).symm, hf⟩
  · rintro ⟨hhi, p, hp, hf⟩
    obtain ⟨hmid, hpeer⟩ := peerLane_fields p
    rw [hp, hpeer]
    exact ⟨⟨hhi, hmid⟩, hf⟩

/-- A format P command whose operand X must be 0 (R104). -/
theorem formatP_operandXZero_eq_ok_iff {f : PeerId → Instr} :
    formatP w (fun p x => operandXZero (f p) x) = .ok i ↔
      w.hi = 0 ∧ ∃ p, w.mid = 0#6 ++ peerBits p ∧ w.lo = 0 ∧ f p = i := by
  simp only [formatP_eq_ok_iff, operandXZero_eq_ok_iff]

/-- A format P command whose operand X is a wait mode (R104). -/
theorem formatP_waitMode_eq_ok_iff {f : PeerId → WaitMode → Instr} :
    formatP w (fun p x => (waitModeOfByte x).map (f p)) = .ok i ↔
      w.hi = 0 ∧ ∃ p, w.mid = 0#6 ++ peerBits p ∧ ∃ t, w.lo = waitModeByte t ∧ f p t = i := by
  simp only [formatP_eq_ok_iff, waitModeOfByte_map_eq_ok_iff]

/-- A format P command that takes any operand X (R104). -/
theorem formatP_anyX_eq_ok_iff {f : PeerId → Byte → Instr} :
    formatP w (fun p x => .ok (f p x)) = .ok i ↔ w.hi = 0 ∧ ∃ p, w.mid = 0#6 ++ peerBits p ∧ f p w.lo = i := by
  simp only [formatP_eq_ok_iff, Except.ok.injEq]

theorem formatW4_eq_ok_iff {f : Word → Instr} :
    formatW4 w data f = .ok i ↔ (w.hi = 0 ∧ w.mid = 0 ∧ w.lo = 0) ∧ ∃ v, data = le32Bytes v ∧ f v = i := by
  unfold formatW4
  rw [ite_error_eq_ok_iff]
  refine and_congr_right fun _ => ⟨fun h => ?_, ?_⟩
  · split at h
    · next d0 d1 d2 d3 => exact ⟨_, (byteOf_le32 d0 d1 d2 d3).symm, Except.ok.inj h⟩
    · cases h
  · rintro ⟨v, rfl, rfl⟩
    simp only [le32Bytes, le32_byteOf]

theorem formatW6_eq_ok_iff {f : Addr → Instr} :
    formatW6 w data f = .ok i ↔ (w.hi = 0 ∧ w.mid = 0 ∧ w.lo = 0) ∧ ∃ a, data = addrBytes a ∧ f a = i := by
  unfold formatW6
  rw [ite_error_eq_ok_iff]
  refine and_congr_right fun _ => ⟨fun h => ?_, ?_⟩
  · split at h
    · exact ⟨_, rfl, Except.ok.inj h⟩
    · cases h
  · rintro ⟨a, rfl, rfl⟩
    rfl

/-- The data string of a format R command (R107): CAP, and the address where there is one. -/
def setupData (cap : Half) (a : Option Addr) : List Byte := [byteOf cap 0, byteOf cap 1] ++ a.elim [] addrBytes

theorem setupData_le16 (d0 d1 : Byte) (a : Option Addr) : setupData (le16 d0 d1) a = [d0, d1] ++ a.elim [] addrBytes := by
  simp only [setupData, byteOf_le16]

theorem formatRNoAddr_eq_ok_iff {f : Bool → Byte → Half → Instr} :
    formatRNoAddr w data f = .ok i ↔
      w.mid = 0 ∧ ∃ e cap, w.hi = setupLane false e ∧ data = setupData cap none ∧ f e w.lo cap = i := by
  unfold formatRNoAddr
  rw [ite_error_eq_ok_iff]
  constructor
  · rintro ⟨⟨hzero, hmid⟩, h⟩
    have hhi := setupLane_of_fields w.hi hzero
    split_ifs at h with ha
    rw [Bool.not_eq_true] at ha
    rw [ha] at hhi
    split at h
    · next d0 d1 => exact ⟨hmid, _, _, hhi.symm, (setupData_le16 d0 d1 none).symm, Except.ok.inj h⟩
    · cases h
  · rintro ⟨hmid, e, cap, hhi, rfl, rfl⟩
    obtain ⟨hzero, ha, he⟩ := setupLane_fields false e
    rw [hhi, ha, he]
    exact ⟨⟨hzero, hmid⟩, by simp [setupData, le16_byteOf]⟩

theorem formatR_eq_ok_iff {f : Bool → Byte → Half → Option Addr → Instr} :
    formatR w data f = .ok i ↔
      w.mid = 0 ∧ ∃ e cap a, w.hi = setupLane a.isSome e ∧ data = setupData cap a ∧ f e w.lo cap a = i := by
  unfold formatR
  rw [ite_error_eq_ok_iff]
  constructor
  · rintro ⟨⟨hzero, hmid⟩, h⟩
    have hhi := setupLane_of_fields w.hi hzero
    split at h
    · next d0 d1 ha =>
      rw [ha] at hhi
      exact ⟨hmid, _, _, none, hhi.symm, (setupData_le16 d0 d1 none).symm, Except.ok.inj h⟩
    · next d0 d1 d2 d3 d4 d5 d6 d7 ha =>
      rw [ha] at hhi
      exact ⟨hmid, _, _, some _, hhi.symm, (setupData_le16 d0 d1 (some ⟨d2, d3, d4, d5, d6, d7⟩)).symm, Except.ok.inj h⟩
    · cases h
  · rintro ⟨hmid, e, cap, a, hhi, rfl, rfl⟩
    obtain ⟨hzero, ha, he⟩ := setupLane_fields a.isSome e
    rw [hhi, ha, he]
    refine ⟨⟨hzero, hmid⟩, ?_⟩
    cases a <;> simp [setupData, addrBytes, le16_byteOf]

theorem formatS_eq_ok_iff {f : PeerId → Bool → List Byte → Instr} :
    formatS w data f = .ok i ↔ ∃ p z, w.hi = sendLane p z ∧ f p z data = i := by
  rw [formatS, ite_error_eq_ok_iff, Except.ok.injEq]
  constructor
  · rintro ⟨hzero, hf⟩
    exact ⟨_, _, (sendLane_of_fields w.hi hzero).symm, hf⟩
  · rintro ⟨p, z, hhi, hf⟩
    obtain ⟨hzero, hp, hz⟩ := sendLane_fields p z
    rw [hhi, hp, hz]
    exact ⟨hzero, hf⟩

theorem formatX_eq_ok_iff {f : Addr → List Byte → Instr} :
    formatX w data f = .ok i ↔ w.hi = 0 ∧ ∃ src rest, data = addrBytes src ++ rest ∧ f src rest = i := by
  unfold formatX
  rw [ite_error_eq_ok_iff]
  refine and_congr_right fun _ => ⟨fun h => ?_, ?_⟩
  · split at h
    · exact ⟨_, _, rfl, Except.ok.inj h⟩
    · cases h
  · rintro ⟨src, rest, rfl, rfl⟩
    rfl

theorem formatD_eq_ok_iff {f : Byte → Half → Instr} : formatD w f = .ok i ↔ f w.lo (le16 w.mid w.hi) = i := by
  rw [formatD, Except.ok.injEq]

/-! ## The data strings -/

theorem length_setupData (cap : Half) (a : Option Addr) : (setupData cap a).length = if a.isSome then 8 else 2 := by
  cases a <;> rfl

/-- The 16-bit field L that holds the length of a data string (R108, R109). -/
theorem lengthField_of_wordLen {w : CmdWord} (h : wordLen w = data.length) :
    data.length ≤ maxDataLen ∧ byteOf (BitVec.ofNat 16 data.length) 1 = w.mid ∧ byteOf (BitVec.ofNat 16 data.length) 0 = w.lo := by
  obtain ⟨hlo, hmid⟩ := byteOf_le16 w.lo w.mid
  rw [← h, wordLen, BitVec.ofNat_toNat, BitVec.setWidth_eq]
  exact ⟨Nat.le_of_lt_succ (le16 w.lo w.mid).isLt, hmid, hlo⟩

/-! ## The bytes that spell a command -/

/-- The bytes are a word of some opcode and a data string of the length R100 gives that word, and its operands are the command's. -/
def Spells (bytes : List Byte) (i : Instr) : Prop :=
  ∃ o hi mid lo data, bytes = wordBytes (opByte o) hi mid lo ++ data ∧ dataLen o ⟨opByte o, hi, mid, lo⟩ = data.length ∧
    decodeOperands o ⟨opByte o, hi, mid, lo⟩ data = .ok i

/-- A command is read from the bytes that spell it, and what follows them is left (R100). -/
theorem decode_eq_instr_iff {bytes rest : List Byte} :
    decode bytes = .instr i rest ↔ ∃ head, bytes = head ++ rest ∧ Spells head i := by
  constructor
  · intro h
    unfold decode at h
    split at h
    · next c0 c1 c2 c3 tail =>
      split at h
      · cases h
      · next o ho =>
        obtain rfl := opByte_of_opOfByte ho
        simp only at h
        split_ifs at h with hlen
        split at h
        · next j hok =>
          obtain ⟨rfl, rfl⟩ := Decoded.instr.inj h
          have htake := (List.length_take_of_le (Nat.le_of_not_lt hlen)).symm
          refine ⟨c0 :: c1 :: c2 :: opByte o :: tail.take _, ?_, o, c2, c1, c0, _, rfl, htake, hok⟩
          simp only [List.cons_append, List.take_append_drop]
        · cases h
    · cases h
  · rintro ⟨head, rfl, o, hi, mid, lo, data, rfl, hlen, hok⟩
    have hword := decode_word (opOfByte_opByte o) data rest hlen
    rw [hok] at hword
    rw [List.append_assoc]
    exact hword

theorem spells_encode (h : i.wellFormed = true) : Spells (encode i) i := by
  cases i with
  | crsfUnpack | crsfTake | sbusUnpack | sbusTake | ibusUnpack | ibusTake | ibusGetmodel | ptGetMyId | ptGetPrimaryId | ptRxcount
  | ptTickdelta => exact ⟨_, _, _, _, [], rfl, rfl, formatN_eq_ok_iff.mpr ⟨⟨rfl, rfl, rfl⟩, rfl⟩⟩
  | crsfFeed | crsfChraw | crsfChpwm | crsfStatus | sbusFeed | sbusChraw | sbusChpwm | sbusStatus | ibusFeed | ibusChraw | ibusChpwm
  | ibusStatus => exact ⟨_, _, _, _, [], rfl, rfl, formatB_eq_ok_iff.mpr ⟨⟨rfl, rfl⟩, rfl⟩⟩
  | crsfWait t | sbusWait t | ibusWait t =>
    exact ⟨_, _, _, _, [], rfl, rfl, formatBWait_eq_ok_iff.mpr ⟨⟨rfl, rfl⟩, t, rfl, rfl⟩⟩
  | valCrc8 ci b => exact ⟨_, _, _, _, [], rfl, rfl, formatC_eq_ok_iff.mpr ⟨rfl, rfl⟩⟩
  | valSum16 v | fpcDecode v | fpcEncode v =>
    exact ⟨_, _, _, _, le32Bytes v, rfl, rfl, formatW4_eq_ok_iff.mpr ⟨⟨rfl, rfl, rfl⟩, v, rfl, rfl⟩⟩
  | ptSetPrimaryAddr a =>
    exact ⟨_, _, _, _, addrBytes a, rfl, rfl, formatW6_eq_ok_iff.mpr ⟨⟨rfl, rfl, rfl⟩, a, rfl, rfl⟩⟩
  | ptSetupPrimary e ch cap =>
    exact ⟨_, _, _, _, setupData cap none, rfl, rfl, formatRNoAddr_eq_ok_iff.mpr ⟨rfl, e, cap, rfl, rfl, rfl⟩⟩
  | ptAddSecondary e ch cap a =>
    have hlane := (setupLane_fields a.isSome e).2.1
    refine ⟨.ptAddSecondary, setupLane a.isSome e, 0, ch, setupData cap a, by cases a <;> rfl, ?_,
      formatR_eq_ok_iff.mpr ⟨rfl, e, cap, a, rfl, rfl, rfl⟩⟩
    simp only [dataLen, opFormat, hlane, length_setupData, true_and]
  | ptRx src d =>
    refine ⟨_, _, _, _, addrBytes src ++ d, List.append_assoc .., ?_, formatX_eq_ok_iff.mpr ⟨rfl, src, d, rfl, rfl⟩⟩
    have hlen := Laws.wordLen_length (opByte .ptRx) 0 (of_decide_eq_true h)
    exact (congrArg (6 + ·) hlen).trans (List.length_append (as := addrBytes src)).symm
  | ptSend p z d =>
    exact ⟨_, _, _, _, d, rfl, Laws.wordLen_length _ _ (of_decide_eq_true h), formatS_eq_ok_iff.mpr ⟨p, z, rfl, rfl⟩⟩
  | ptBcastId n dly =>
    exact ⟨_, _, _, _, [], rfl, rfl, formatD_eq_ok_iff.mpr (congrArg _ (le16_byteOf dly))⟩
  | ptTake p | ptGetlen p =>
    exact ⟨_, _, _, _, [], rfl, rfl, formatP_operandXZero_eq_ok_iff.mpr ⟨rfl, p, rfl, rfl, rfl⟩⟩
  | ptWait p t =>
    exact ⟨_, _, _, _, [], rfl, rfl, formatP_waitMode_eq_ok_iff.mpr ⟨rfl, p, rfl, t, rfl, rfl⟩⟩
  | ptReadbuf p x => exact ⟨_, _, _, _, [], rfl, rfl, formatP_anyX_eq_ok_iff.mpr ⟨rfl, p, rfl, rfl⟩⟩

/-- The bytes that spell a command are its encoding: each format's fields are written as the encoder writes them. -/
theorem Spells.eq_encode {bytes : List Byte} (h : Spells bytes i) : i.wellFormed = true ∧ bytes = encode i := by
  obtain ⟨o, hi, mid, lo, data, rfl, hlen, hok⟩ := h
  cases o with
  | crsfUnpack | crsfTake | sbusUnpack | sbusTake | ibusUnpack | ibusTake | ibusGetmodel | ptGetMyId | ptGetPrimaryId | ptRxcount
  | ptTickdelta =>
    obtain rfl := List.eq_nil_of_length_eq_zero hlen.symm
    obtain ⟨⟨rfl, rfl, rfl⟩, rfl⟩ := formatN_eq_ok_iff.mp hok
    exact ⟨rfl, rfl⟩
  | crsfFeed | crsfChraw | crsfChpwm | crsfStatus | sbusFeed | sbusChraw | sbusChpwm | sbusStatus | ibusFeed | ibusChraw | ibusChpwm
  | ibusStatus =>
    obtain rfl := List.eq_nil_of_length_eq_zero hlen.symm
    obtain ⟨⟨rfl, rfl⟩, rfl⟩ := formatB_eq_ok_iff.mp hok
    exact ⟨rfl, rfl⟩
  | crsfWait | sbusWait | ibusWait =>
    obtain rfl := List.eq_nil_of_length_eq_zero hlen.symm
    obtain ⟨⟨rfl, rfl⟩, t, rfl, rfl⟩ := formatBWait_eq_ok_iff.mp hok
    exact ⟨rfl, rfl⟩
  | valCrc8 =>
    obtain rfl := List.eq_nil_of_length_eq_zero hlen.symm
    obtain ⟨rfl, rfl⟩ := formatC_eq_ok_iff.mp hok
    exact ⟨rfl, rfl⟩
  | valSum16 | fpcDecode | fpcEncode =>
    obtain ⟨⟨rfl, rfl, rfl⟩, v, rfl, rfl⟩ := formatW4_eq_ok_iff.mp hok
    exact ⟨rfl, rfl⟩
  | ptSetPrimaryAddr =>
    obtain ⟨⟨rfl, rfl, rfl⟩, a, rfl, rfl⟩ := formatW6_eq_ok_iff.mp hok
    exact ⟨rfl, rfl⟩
  | ptSetupPrimary =>
    obtain ⟨rfl, e, cap, rfl, rfl, rfl⟩ := formatRNoAddr_eq_ok_iff.mp hok
    exact ⟨rfl, rfl⟩
  | ptAddSecondary =>
    obtain ⟨rfl, e, cap, a, rfl, rfl, rfl⟩ := formatR_eq_ok_iff.mp hok
    cases a <;> exact ⟨rfl, rfl⟩
  | ptRx =>
    obtain ⟨rfl, src, d, rfl, rfl⟩ := formatX_eq_ok_iff.mp hok
    have hd : wordLen ⟨opByte .ptRx, 0, mid, lo⟩ = d.length :=
      Nat.add_left_cancel (n := 6) (hlen.trans (List.length_append (as := addrBytes src)))
    obtain ⟨hmax, hmid, hlo⟩ := lengthField_of_wordLen hd
    exact ⟨decide_eq_true hmax, by simp only [encode, hmid, hlo, List.append_assoc]⟩
  | ptSend =>
    obtain ⟨p, z, rfl, rfl⟩ := formatS_eq_ok_iff.mp hok
    obtain ⟨hmax, hmid, hlo⟩ := lengthField_of_wordLen (w := ⟨opByte .ptSend, sendLane p z, mid, lo⟩) hlen
    exact ⟨decide_eq_true hmax, by simp only [encode, hmid, hlo]⟩
  | ptBcastId =>
    obtain rfl := List.eq_nil_of_length_eq_zero hlen.symm
    obtain rfl := formatD_eq_ok_iff.mp hok
    exact ⟨rfl, by simp [encode, byteOf_le16]⟩
  | ptTake | ptGetlen =>
    obtain rfl := List.eq_nil_of_length_eq_zero hlen.symm
    obtain ⟨rfl, p, rfl, rfl, rfl⟩ := formatP_operandXZero_eq_ok_iff.mp hok
    exact ⟨rfl, rfl⟩
  | ptWait =>
    obtain rfl := List.eq_nil_of_length_eq_zero hlen.symm
    obtain ⟨rfl, p, rfl, t, rfl, rfl⟩ := formatP_waitMode_eq_ok_iff.mp hok
    exact ⟨rfl, rfl⟩
  | ptReadbuf =>
    obtain rfl := List.eq_nil_of_length_eq_zero hlen.symm
    obtain ⟨rfl, p, rfl, rfl⟩ := formatP_anyX_eq_ok_iff.mp hok
    exact ⟨rfl, rfl⟩

/-- Settles O1: the encoding of a command spells it, and `decode` reads what the bytes at the head of CMD spell. -/
theorem decodeOfEncode : Obligations.DecodeOfEncode := fun _ _ h =>
  decode_eq_instr_iff.mpr ⟨_, rfl, spells_encode h⟩

/-- Settles O2: `decode` reads what the bytes at the head of CMD spell, and only a command's encoding spells it. -/
theorem encodeOfDecode : Obligations.EncodeOfDecode := by
  intro bytes i rest h
  obtain ⟨head, rfl, hspells⟩ := decode_eq_instr_iff.mp h
  obtain ⟨hwf, rfl⟩ := hspells.eq_encode
  exact ⟨hwf, rfl⟩

/-- A table word whose bytes are a command's encoding reads as that command. -/
theorem decodeTableWord_of_encode {nbits c : Nat} (hwf : i.wellFormed = true) (h : tableBytes nbits c = encode i) :
    decodeTableWord nbits c = some i := by
  have hd : decode (tableBytes nbits c) = .instr i [] := decode_eq_instr_iff.mpr ⟨_, (List.append_nil _).symm, h ▸ spells_encode hwf⟩
  simp only [decodeTableWord, hd]

/-- Settles O4: the bytes of each legal word are the encoding of its command, and evaluating `decode` refuses the other two. -/
theorem specWordsDecode : Obligations.SpecWordsDecode :=
  ⟨decodeTableWord_of_encode rfl rfl, decodeTableWord_of_encode rfl rfl, decodeTableWord_of_encode rfl rfl,
    decodeTableWord_of_encode rfl rfl, decodeTableWord_of_encode rfl rfl, decodeTableWord_of_encode rfl rfl,
    decodeTableWord_of_encode rfl rfl, decodeTableWord_of_encode rfl rfl, decodeTableWord_of_encode rfl rfl,
    decodeTableWord_of_encode rfl rfl, decodeTableWord_of_encode rfl rfl, decodeTableWord_of_encode rfl rfl, rfl, rfl⟩

end Sys2Proof
end

section
/-! The opcode table (spec/30_encoding.md R110, R111) by the lanes of a word: a word is one of its rows' exactly where `decode` reads
its operands, and the refusal of every other word. -/

namespace Sys2Proof

open Machine

variable {o : Opcode} {w : CmdWord} {data : List Byte}

/-! ## The rows by their lanes -/

/-- The mask of an opcode's row, lane by lane. -/
def rowMask : Opcode → CmdWord
  | .crsfUnpack | .crsfTake | .sbusUnpack | .sbusTake | .ibusUnpack | .ibusTake | .ibusGetmodel => ⟨0xFF, 0xFF, 0xFF, 0xFF⟩
  | .ptGetMyId | .ptGetPrimaryId | .ptRxcount | .ptTickdelta => ⟨0xFF, 0xFF, 0xFF, 0xFF⟩
  | .valSum16 | .fpcDecode | .fpcEncode | .ptSetPrimaryAddr => ⟨0xFF, 0xFF, 0xFF, 0xFF⟩
  | .crsfFeed | .crsfChraw | .crsfChpwm | .crsfStatus => ⟨0xFF, 0xFF, 0xFF, 0x00⟩
  | .sbusFeed | .sbusChraw | .sbusChpwm | .sbusStatus => ⟨0xFF, 0xFF, 0xFF, 0x00⟩
  | .ibusFeed | .ibusChraw | .ibusChpwm | .ibusStatus => ⟨0xFF, 0xFF, 0xFF, 0x00⟩
  | .crsfWait | .sbusWait | .ibusWait => ⟨0xFF, 0xFF, 0xFF, 0xFE⟩
  | .valCrc8 | .ptRx => ⟨0xFF, 0xFF, 0x00, 0x00⟩
  | .ptSetupPrimary => ⟨0xFF, 0xFE, 0xFF, 0x00⟩
  | .ptAddSecondary => ⟨0xFF, 0xFC, 0xFF, 0x00⟩
  | .ptSend => ⟨0xFF, 0x1F, 0x00, 0x00⟩
  | .ptBcastId => ⟨0xFF, 0x00, 0x00, 0x00⟩
  | .ptTake | .ptGetlen => ⟨0xFF, 0xFF, 0xFC, 0xFF⟩
  | .ptWait => ⟨0xFF, 0xFF, 0xFC, 0xFE⟩
  | .ptReadbuf => ⟨0xFF, 0xFF, 0xFC, 0x00⟩

/-- The row of an opcode. -/
def rowOf (o : Opcode) : OpcodeRow :=
  ⟨le32 0 0 0 (opByte o), le32 (rowMask o).lo (rowMask o).mid (rowMask o).hi (rowMask o).op⟩

theorem opcodeRows_eq : opcodeRows = opcodes.map rowOf := rfl

theorem mem_opcodes (o : Opcode) : o ∈ opcodes := by cases o <;> decide

theorem rowMask_op (o : Opcode) : (rowMask o).op = 0xFF := by cases o <;> rfl

/-- The bits below the opcode that the row of `o` fixes are 0. -/
def FixedBitsZero (o : Opcode) (w : CmdWord) : Prop :=
  w.hi &&& (rowMask o).hi = 0 ∧ w.mid &&& (rowMask o).mid = 0 ∧ w.lo &&& (rowMask o).lo = 0

theorem le32_inj {a0 a1 a2 a3 b0 b1 b2 b3 : Byte} :
    le32 a0 a1 a2 a3 = le32 b0 b1 b2 b3 ↔ a0 = b0 ∧ a1 = b1 ∧ a2 = b2 ∧ a3 = b3 := by
  refine ⟨fun h => ?_, by rintro ⟨rfl, rfl, rfl, rfl⟩; rfl⟩
  simpa [byteOf_le32] using congrArg le32Bytes h

theorem le32_and (a0 a1 a2 a3 b0 b1 b2 b3 : Byte) :
    le32 a0 a1 a2 a3 &&& le32 b0 b1 b2 b3 = le32 (a0 &&& b0) (a1 &&& b1) (a2 &&& b2) (a3 &&& b3) := by
  have h : (a3 ++ a2 ++ a1 ++ a0) &&& (b3 ++ b2 ++ b1 ++ b0) = (a3 &&& b3) ++ (a2 &&& b2) ++ (a1 &&& b1) ++ (a0 &&& b0) := by
    simp only [BitVec.and_append]
  exact h

theorem and_0xFF (b : Byte) : b &&& 0xFF = b := BitVec.and_allOnes

theorem and_0x00 (b : Byte) : b &&& 0x00 = 0 := BitVec.and_zero

/-- A word matches the row of an opcode, lane by lane. -/
theorem matches_rowOf_iff {c0 c1 c2 c3 : Byte} :
    le32 c0 c1 c2 c3 &&& (rowOf o).mask = (rowOf o).pattern ↔ c3 = opByte o ∧ FixedBitsZero o ⟨c3, c2, c1, c0⟩ := by
  simp only [rowOf, le32_and, le32_inj, rowMask_op, and_0xFF, FixedBitsZero]
  tauto

/-- A word spells a command exactly where its opcode is assigned and the bits its row fixes are 0 (R110, R111). -/
theorem spellsCommand_iff {c0 c1 c2 c3 : Byte} :
    spellsCommand (le32 c0 c1 c2 c3) ↔ ∃ o, opOfByte c3 = some o ∧ FixedBitsZero o ⟨c3, c2, c1, c0⟩ := by
  simp only [spellsCommand, opcodeRows_eq, List.mem_map]
  constructor
  · rintro ⟨-, ⟨o, -, rfl⟩, hrow⟩
    obtain ⟨rfl, hzero⟩ := matches_rowOf_iff.mp hrow
    exact ⟨o, opOfByte_opByte o, hzero⟩
  · rintro ⟨o, ho, hzero⟩
    exact ⟨_, ⟨o, mem_opcodes o, rfl⟩, matches_rowOf_iff.mpr ⟨(opByte_of_opOfByte ho).symm, hzero⟩⟩

/-! ## The lanes that hold a field and bits that must be zero -/

theorem exists_waitModeByte_iff {b : Byte} : (∃ t, b = waitModeByte t) ↔ b &&& 0xFE = 0 := by
  have h : ∀ b : Byte, b &&& 0xFE = 0 → b = 0 ∨ b = 1 := by decide
  refine ⟨?_, fun hb => (h b hb).elim (fun e => ⟨.inf, e⟩) (fun e => ⟨.timed, e⟩)⟩
  rintro ⟨t, rfl⟩
  cases t <;> rfl

theorem exists_peerLane_iff {b : Byte} : (∃ p, b = 0#6 ++ peerBits p) ↔ b &&& 0xFC = 0 := by
  have h : ∀ b : Byte, b &&& 0xFC = 0 → b.extractLsb' 2 6 = 0 := by decide
  refine ⟨?_, fun hb => ⟨_, (peerLane_of_fields b (h b hb)).symm⟩⟩
  rintro ⟨p, rfl⟩
  cases p <;> rfl

theorem exists_setupLane_iff {b : Byte} : (∃ a e, b = setupLane a e) ↔ b &&& 0xFC = 0 := by
  have h : ∀ b : Byte, b &&& 0xFC = 0 → b.extractLsb' 2 6 = 0 := by decide
  refine ⟨?_, fun hb => ⟨_, _, (setupLane_of_fields b (h b hb)).symm⟩⟩
  rintro ⟨a, e, rfl⟩
  cases a <;> cases e <;> rfl

/-- As `exists_setupLane_iff`, with A = 0 (R111). -/
theorem exists_setupLane_false_iff {b : Byte} : (∃ e, b = setupLane false e) ↔ b &&& 0xFE = 0 := by
  have h : ∀ b : Byte, b &&& 0xFE = 0 → b = setupLane false (b.getLsbD 0) := by decide
  refine ⟨?_, fun hb => ⟨_, h b hb⟩⟩
  rintro ⟨e, rfl⟩
  cases e <;> rfl

theorem exists_sendLane_iff {b : Byte} : (∃ p z, b = sendLane p z) ↔ b &&& 0x1F = 0 := by
  have h : ∀ b : Byte, b &&& 0x1F = 0 → b.extractLsb' 0 5 = 0 := by decide
  refine ⟨?_, fun hb => ⟨_, _, (sendLane_of_fields b (h b hb)).symm⟩⟩
  rintro ⟨p, z, rfl⟩
  cases p <;> cases z <;> rfl

/-! ## The data strings of each length -/

theorem exists_eq_le32Bytes (h : data.length = 4) : ∃ v, data = le32Bytes v := by
  match data, h with
  | [d0, d1, d2, d3], _ => exact ⟨_, (byteOf_le32 d0 d1 d2 d3).symm⟩

theorem exists_eq_addrBytes_append (h : 6 ≤ data.length) : ∃ a rest, data = addrBytes a ++ rest := by
  match data, h with
  | a0 :: a1 :: a2 :: a3 :: a4 :: a5 :: rest, _ => exact ⟨⟨a0, a1, a2, a3, a4, a5⟩, rest, rfl⟩

theorem exists_eq_addrBytes (h : data.length = 6) : ∃ a, data = addrBytes a := by
  match data, h with
  | [a0, a1, a2, a3, a4, a5], _ => exact ⟨⟨a0, a1, a2, a3, a4, a5⟩, rfl⟩

theorem exists_eq_setupData {a : Bool} (h : data.length = if a then 8 else 2) :
    ∃ cap addr, addr.isSome = a ∧ data = setupData cap addr := by
  match a, data, h with
  | false, [d0, d1], _ => exact ⟨_, none, rfl, (setupData_le16 d0 d1 none).symm⟩
  | true, [d0, d1, d2, d3, d4, d5, d6, d7], _ =>
    exact ⟨_, some ⟨d2, d3, d4, d5, d6, d7⟩, rfl, (setupData_le16 d0 d1 (some ⟨d2, d3, d4, d5, d6, d7⟩)).symm⟩

/-! ## The words each format reads -/

/-- With its data string whole, a word's operands are read exactly where the bits its row fixes are 0: these are the must-be-zero bits
of its format (R101 to R109, R111). -/
theorem exists_decodeOperands_iff (hlen : dataLen o w = data.length) :
    (∃ i, decodeOperands o w data = .ok i) ↔ FixedBitsZero o w := by
  simp only [FixedBitsZero]
  cases o with
  | crsfUnpack | crsfTake | sbusUnpack | sbusTake | ibusUnpack | ibusTake | ibusGetmodel | ptGetMyId | ptGetPrimaryId | ptRxcount
  | ptTickdelta =>
    simp only [rowMask, and_0xFF, decodeOperands, formatN_eq_ok_iff]
    exact ⟨fun ⟨_, hw, _⟩ => hw, fun hw => ⟨_, hw, rfl⟩⟩
  | crsfFeed | crsfChraw | crsfChpwm | crsfStatus | sbusFeed | sbusChraw | sbusChpwm | sbusStatus | ibusFeed | ibusChraw | ibusChpwm
  | ibusStatus =>
    simp only [rowMask, and_0xFF, and_0x00, and_true, decodeOperands, formatB_eq_ok_iff]
    exact ⟨fun ⟨_, hw, _⟩ => hw, fun hw => ⟨_, hw, rfl⟩⟩
  | crsfWait | sbusWait | ibusWait =>
    simp only [rowMask, and_0xFF, ← exists_waitModeByte_iff, decodeOperands, formatBWait_eq_ok_iff]
    exact ⟨fun ⟨_, ⟨hhi, hmid⟩, t, hlo, _⟩ => ⟨hhi, hmid, t, hlo⟩, fun ⟨hhi, hmid, t, hlo⟩ => ⟨_, ⟨hhi, hmid⟩, t, hlo, rfl⟩⟩
  | valCrc8 =>
    simp only [rowMask, and_0xFF, and_0x00, and_true, decodeOperands, formatC_eq_ok_iff]
    exact ⟨fun ⟨_, hhi, _⟩ => hhi, fun hhi => ⟨_, hhi, rfl⟩⟩
  | valSum16 | fpcDecode | fpcEncode =>
    simp only [rowMask, and_0xFF, decodeOperands, formatW4_eq_ok_iff]
    obtain ⟨v, hv⟩ := exists_eq_le32Bytes hlen.symm
    exact ⟨fun ⟨_, hw, _⟩ => hw, fun hw => ⟨_, hw, v, hv, rfl⟩⟩
  | ptSetPrimaryAddr =>
    simp only [rowMask, and_0xFF, decodeOperands, formatW6_eq_ok_iff]
    obtain ⟨a, ha⟩ := exists_eq_addrBytes hlen.symm
    exact ⟨fun ⟨_, hw, _⟩ => hw, fun hw => ⟨_, hw, a, ha, rfl⟩⟩
  | ptSetupPrimary =>
    simp only [rowMask, and_0xFF, and_0x00, and_true, ← exists_setupLane_false_iff, decodeOperands, formatRNoAddr_eq_ok_iff]
    obtain ⟨cap, addr, hnone, hdata⟩ := exists_eq_setupData (a := false) hlen.symm
    obtain rfl := Option.isNone_iff_eq_none.mp (Option.isSome_eq_false_iff.mp hnone)
    exact ⟨fun ⟨_, hmid, e, _, hhi, _⟩ => ⟨⟨e, hhi⟩, hmid⟩, fun ⟨⟨e, hhi⟩, hmid⟩ => ⟨_, hmid, e, cap, hhi, hdata, rfl⟩⟩
  | ptAddSecondary =>
    simp only [rowMask, and_0xFF, and_0x00, and_true, ← exists_setupLane_iff, decodeOperands, formatR_eq_ok_iff]
    refine ⟨fun ⟨_, hmid, e, _, a, hhi, _⟩ => ⟨⟨a.isSome, e, hhi⟩, hmid⟩, ?_⟩
    rintro ⟨⟨a, e, hhi⟩, hmid⟩
    have ha : w.hi.getLsbD 1 = a := hhi ▸ (setupLane_fields a e).2.1
    simp only [dataLen, opFormat, true_and, ha] at hlen
    obtain ⟨cap, addr, rfl, hdata⟩ := exists_eq_setupData hlen.symm
    exact ⟨_, hmid, e, cap, addr, hhi, hdata, rfl⟩
  | ptRx =>
    simp only [rowMask, and_0xFF, and_0x00, and_true, decodeOperands, formatX_eq_ok_iff]
    obtain ⟨src, d, hdata⟩ := exists_eq_addrBytes_append ((Nat.le_add_right 6 (wordLen w)).trans_eq hlen)
    exact ⟨fun ⟨_, hhi, _⟩ => hhi, fun hhi => ⟨_, hhi, src, d, hdata, rfl⟩⟩
  | ptSend =>
    simp only [rowMask, and_0x00, and_true, ← exists_sendLane_iff, decodeOperands, formatS_eq_ok_iff]
    exact ⟨fun ⟨_, p, z, hhi, _⟩ => ⟨p, z, hhi⟩, fun ⟨p, z, hhi⟩ => ⟨_, p, z, hhi, rfl⟩⟩
  | ptBcastId =>
    simp only [rowMask, and_0x00, and_true, decodeOperands, formatD_eq_ok_iff, exists_eq']
  | ptTake | ptGetlen =>
    simp only [rowMask, and_0xFF, ← exists_peerLane_iff, decodeOperands, formatP_operandXZero_eq_ok_iff]
    exact ⟨fun ⟨_, hhi, p, hmid, hlo, _⟩ => ⟨hhi, ⟨p, hmid⟩, hlo⟩, fun ⟨hhi, ⟨p, hmid⟩, hlo⟩ => ⟨_, hhi, p, hmid, hlo, rfl⟩⟩
  | ptWait =>
    simp only [rowMask, and_0xFF, ← exists_peerLane_iff, ← exists_waitModeByte_iff, decodeOperands, formatP_waitMode_eq_ok_iff]
    exact ⟨fun ⟨_, hhi, p, hmid, t, hlo, _⟩ => ⟨hhi, ⟨p, hmid⟩, t, hlo⟩,
      fun ⟨hhi, ⟨p, hmid⟩, t, hlo⟩ => ⟨_, hhi, p, hmid, t, hlo, rfl⟩⟩
  | ptReadbuf =>
    simp only [rowMask, and_0xFF, and_0x00, and_true, ← exists_peerLane_iff, decodeOperands, formatP_anyX_eq_ok_iff]
    exact ⟨fun ⟨_, hhi, p, hmid, _⟩ => ⟨hhi, p, hmid⟩, fun ⟨hhi, p, hmid⟩ => ⟨_, hhi, p, hmid, rfl⟩⟩

/-! ## The data bytes of a word -/

theorem le32_div_op (c0 c1 c2 c3 : Byte) : (le32 c0 c1 c2 c3).toNat / 2 ^ 24 = c3.toNat := by
  rw [le32_toNat]
  omega

theorem le32_mod_len (c0 c1 c2 c3 : Byte) : (le32 c0 c1 c2 c3).toNat % 2 ^ 16 = wordLen ⟨c3, c2, c1, c0⟩ := by
  simp only [le32_toNat, wordLen, le16_toNat]
  omega

/-- Bit 17 of a word is the flag A of format R (R107). -/
theorem le32_bit17 (c0 c1 c2 c3 : Byte) : (le32 c0 c1 c2 c3).toNat / 2 ^ 17 % 2 = (c2.getLsbD 1).toNat := by
  rw [← BitVec.testBit_toNat, Nat.toNat_testBit, le32_toNat]
  omega

/-- The data bytes the statements count are those of the opcode's format (R100). -/
theorem dataBytesAfter_of_opcode {c0 c1 c2 c3 : Byte} (ho : opOfByte c3 = some o) :
    dataBytesAfter (le32 c0 c1 c2 c3) = dataLen o ⟨c3, c2, c1, c0⟩ := by
  have hop : (le32 c0 c1 c2 c3).toNat / 2 ^ 24 = (opByte o).toNat := by rw [le32_div_op, opByte_of_opOfByte ho]
  unfold dataBytesAfter
  rw [hop, le32_mod_len, le32_bit17]
  cases o with
  | ptAddSecondary =>
    simp only [dataLen, opFormat, true_and]
    cases c2.getLsbD 1 <;> rfl
  | _ => rfl

/-- An opcode byte with no row has no data bytes (R111). -/
theorem dataBytesAfter_of_unassigned {c0 c1 c2 c3 : Byte} (ho : opOfByte c3 = none) : dataBytesAfter (le32 c0 c1 c2 c3) = 0 := by
  have hassigned : ∀ k ∈ [0x41, 0x50, 0x51, 0x60, 0x61, 0x62, 0x63, 0x64], c3.toNat ≠ k := by
    have h : ∀ k ∈ [0x41, 0x50, 0x51, 0x60, 0x61, 0x62, 0x63, 0x64], opOfByte (BitVec.ofNat 8 k) ≠ none := by decide
    rintro k hk rfl
    exact h _ hk (by rwa [BitVec.ofNat_toNat, BitVec.setWidth_eq])
  unfold dataBytesAfter
  rw [le32_div_op]
  split
  case h_9 => rfl
  all_goals
    next hk => exact absurd hk (hassigned _ (by decide))

/-! ## The table and the decoder -/

/-- Settles O3: a word of an assigned opcode is read exactly where its fixed bits are 0, which is where its row matches it; a word of
no row's opcode is refused with no data bytes. -/
theorem opcodeTableDecides : Obligations.OpcodeTableDecides := by
  intro c0 c1 c2 c3 tail hlen
  cases ho : opOfByte c3 with
  | none =>
    rw [dataBytesAfter_of_unassigned ho]
    refine ⟨fun hspells => ?_, fun _ => ⟨.unknownOpcode, by simp only [decode, ho, List.drop_zero]⟩⟩
    obtain ⟨o, ho', -⟩ := spellsCommand_iff.mp hspells
    simp [ho] at ho'
  | some o =>
    rw [dataBytesAfter_of_opcode ho] at hlen ⊢
    have htake := (List.length_take_of_le hlen).symm
    have hdecode := decode_word ho _ (tail.drop (dataLen o ⟨c3, c2, c1, c0⟩)) htake
    rw [List.take_append_drop] at hdecode
    have hspells : spellsCommand (le32 c0 c1 c2 c3) ↔ FixedBitsZero o ⟨c3, c2, c1, c0⟩ := by
      simp [spellsCommand_iff, ho]
    rw [hspells, ← exists_decodeOperands_iff htake]
    cases hd : decodeOperands o ⟨c3, c2, c1, c0⟩ (tail.take (dataLen o ⟨c3, c2, c1, c0⟩)) with
    | ok i =>
      rw [hd] at hdecode
      exact ⟨fun _ => ⟨i, hdecode⟩, fun h => absurd ⟨i, rfl⟩ h⟩
    | error e =>
      rw [hd] at hdecode
      exact ⟨fun ⟨_, h⟩ => (nomatch h), fun _ => ⟨e, hdecode⟩⟩

/-- A word that spells no command is refused at the turn of a consumer that is in no other command (R111, R409). -/
theorem step_illegal {s : State} {e : Env} {ts : List Turn} {why : Illegal} {rest : List Byte}
    (hturns : s.turns = ⟨.consumer, e⟩ :: ts) (hbid : s.pt.bidActive = false) (hwait : s.waiting = none)
    (hd : decode s.cmd = .illegal why rest) :
    step s = .next (State.failWith { s.beginTurn ⟨.consumer, e⟩ ts with cmd := rest } .illegal) := by
  calc step s
    _ = stepAgent .consumer (s.beginTurn ⟨.consumer, e⟩ ts) := step_of_turn hturns
    _ = stepCommand .consumer (s.beginTurn ⟨.consumer, e⟩ ts) :=
      stepAgent_eq_stepCommand (fun _ => ⟨hbid, hwait⟩) nofun nofun nofun nofun
    _ = _ := by simp only [stepCommand, State.beginTurn_cmd, hd, if_true]

/-- Settles O7: a word no row matches is read as illegal (`opcodeTableDecides`), and the consumer's turn refuses it. -/
theorem illegalWordIsRefused : Obligations.IllegalWordIsRefused := by
  intro s e ts c0 c1 c2 c3 tail hturns hbid hwait hcmd hspells hlen
  obtain ⟨why, hd⟩ := (opcodeTableDecides c0 c1 c2 c3 tail hlen).2 hspells
  exact ⟨_, step_illegal hturns hbid hwait (hcmd ▸ hd), _, rfl⟩

end Sys2Proof
end

section
/-! FPC.DECODE (spec/40_fixed_point_codec.md R150 to R154): the operand's fields as numbers, and the shift of R152 as a division. -/

namespace Sys2Proof.Machine

variable {w : Word}

theorem floatExp_eq (w : Word) : floatExp w = w.toNat / 2 ^ 23 % 2 ^ 8 := by
  rw [floatExp, BitVec.extractLsb'_toNat, Nat.shiftRight_eq_div_pow]

theorem floatMant_eq (w : Word) : floatMant w = w.toNat % 2 ^ 23 := by
  rw [floatMant, BitVec.extractLsb'_toNat, Nat.shiftRight_zero]

theorem floatSign_iff (w : Word) : floatSign w = true ↔ 2 ^ 31 ≤ w.toNat := by
  have hw := w.isLt
  rw [floatSign, ← BitVec.testBit_toNat, Nat.testBit_eq_decide_div_mod_eq, decide_eq_true_iff]
  omega

/-- The shifted significand is the value times 2^11, rounded down; a shift of 24 or more leaves nothing of its 24 bits (R152). -/
theorem fpcMagnitude_eq {e m : Nat} (he : e ≤ 139) (hm : m < 2 ^ 23) :
    fpcMagnitude e m = (2 ^ 23 + m) * 2 ^ e / 2 ^ 139 := by
  have hshift : (2 ^ 23 + m) * 2 ^ e / 2 ^ 139 = (2 ^ 23 + m) / 2 ^ (139 - e) := by
    rw [← Nat.sub_add_cancel he, Nat.pow_add, Nat.add_sub_cancel]
    exact Nat.mul_div_mul_right _ _ (Nat.two_pow_pos e)
  rw [hshift, fpcMagnitude]
  split_ifs with hbig
  · have hpow : 2 ^ 24 ≤ 2 ^ (139 - e) := Nat.pow_le_pow_right (by decide) hbig
    exact (Nat.div_eq_of_lt (by omega)).symm
  · rfl

theorem fpcMagnitude_lt {e m : Nat} (hm : m < 2 ^ 23) : fpcMagnitude e m < 2 ^ 24 := by
  rw [fpcMagnitude]
  split_ifs
  · decide
  · exact Nat.lt_of_le_of_lt (Nat.div_le_self ..) (by omega)

/-- A magnitude that fits 31 bits, with its sign, as i32 (R154). -/
theorem toInt_signed {mag : Nat} (h : mag < 2 ^ 31) (neg : Bool) :
    (if neg then -(BitVec.ofNat 32 mag) else BitVec.ofNat 32 mag).toInt = (if neg then -1 else 1) * (mag : Int) := by
  have hpos : (BitVec.ofNat 32 mag).toInt = mag := by
    rw [BitVec.toInt_ofNat']
    exact Int.bmod_eq_of_le (by omega) (by omega)
  cases neg with
  | false => simpa using hpos
  | true =>
    simp only [if_true, BitVec.toInt_neg, hpos]
    rw [Int.bmod_eq_of_le] <;> omega

theorem fpcDecodeValue_zero (h : floatExp w = 0) : fpcDecodeValue w = 0 := if_pos h

theorem fpcDecodeValue_big (h : 140 ≤ floatExp w) : fpcDecodeValue w = Config.fpcBig w := by
  have h0 : floatExp w ≠ 0 := by omega
  have hbig : fpcUnshiftedExp < floatExp w := h
  rw [fpcDecodeValue, if_neg h0, if_pos hbig]

/-- The shifted branch of FPC.DECODE (R150, R152, R154). -/
theorem fpcDecodeValue_shifted (hlo : 1 ≤ floatExp w) (hhi : floatExp w ≤ 139) :
    (fpcDecodeValue w).toInt =
      (if floatSign w then -1 else 1) * ((2 ^ 23 + floatMant w) * 2 ^ floatExp w / 2 ^ 139 : Nat) := by
  have hmant : floatMant w < 2 ^ 23 := BitVec.isLt _
  have hmag := fpcMagnitude_lt (e := floatExp w) hmant
  have h0 : floatExp w ≠ 0 := by omega
  have hbig : ¬ fpcUnshiftedExp < floatExp w := Nat.not_lt_of_le hhi
  rw [fpcDecodeValue, if_neg h0, if_neg hbig, ← fpcMagnitude_eq hhi hmant]
  exact toInt_signed (by omega) (floatSign w)

/-- Settles O28: each of the three ranges of the exponent is one branch of FPC.DECODE. -/
theorem fpcDecodeTruncates : Obligations.FpcDecodeTruncates := by
  intro s w
  refine ⟨fpcDecodeValue w, rfl, ?_⟩
  simp only [← floatExp_eq, ← floatMant_eq, ← floatSign_iff]
  exact ⟨fpcDecodeValue_zero, fpcDecodeValue_shifted, fpcDecodeValue_big⟩

end Sys2Proof.Machine
end

section
/-! IBUS.UNPACK (spec/43_ibus.md R240 to R243, spec/44_validators.md R265, R266): the frame check and the channels as numbers. -/

namespace Sys2Proof.Machine

/-! ## The frame check -/

/-- The sum over `n` slots from index `o` (R265). -/
theorem sum16_slots_toNat (f : Memory) (n o : Nat) (seed : Half) :
    (sum16 seed (f.bytes o (2 * n))).toNat =
      (seed.toNat + ∑ j : Fin n, ((f.read (o + 2 * j.val)).toNat + 2 ^ 8 * (f.read (o + 2 * j.val + 1)).toNat)) % 2 ^ 16 := by
  induction n generalizing o seed with
  | zero => simp [Memory.bytes_zero, sum16, Nat.mod_eq_of_lt seed.isLt]
  | succ n ih =>
    have hslot (j : Nat) : o + 1 + 1 + 2 * j = o + 2 * (j + 1) := by omega
    rw [Nat.mul_succ, Memory.bytes_succ, Memory.bytes_succ, sum16_cons, ih, Fin.sum_univ_succ, BitVec.toNat_add, le16_toNat,
      Nat.mod_add_mod]
    simp only [hslot, Fin.val_succ, Fin.val_zero, Nat.mul_zero, Nat.add_zero, Nat.add_assoc]

/-- The frame check as numbers (R266): the frame is long enough, and the sum of its slots is its checksum. -/
theorem ibusFrameOk_iff (f : Memory) (n o : Nat) (seed : Half) :
    ibusFrameOk f n o seed = true ↔ o + 30 ≤ n ∧
      (seed.toNat + ∑ j : Fin 14, ((f.read (o + 2 * j.val)).toNat + 2 ^ 8 * (f.read (o + 2 * j.val + 1)).toNat)) % 2 ^ 16
        = (f.read (n - 2)).toNat + 2 ^ 8 * (f.read (n - 1)).toNat := by
  rw [ibusFrameOk, Bool.and_eq_true, decide_eq_true_iff, decide_eq_true_iff, ← BitVec.toNat_inj, le16_toNat]
  exact and_congr_right fun _ => by rw [sum16_slots_toNat]; rfl

/-- What IBUS.UNPACK does with a frame in the buffer that passes the check (R240, R243). -/
theorem ibusUnpack_of_frameOk {u : IbusUnit} (hempty : u.dec.empty = false) (hslen : u.dec.slen.toNat ≤ ibusBuf)
    (hok : ibusFrameOk u.dec.stable u.dec.slen.toNat u.soffset.toNat u.sseed = true) :
    ibusUnpack u =
      .ok ({ u with ch := ibusChannels u.dec.stable u.soffset.toNat, dec := { u.dec with empty := true } }, true) := by
  have hinside : ¬ (ibusBuf < u.dec.slen.toNat ∧ u.soffset.toNat + 30 ≤ u.dec.slen.toNat) := by omega
  simp only [ibusUnpack, hempty, hinside, hok, Bool.false_eq_true, Bool.not_true, if_false]

/-! ## The channels -/

theorem toNat_lowNibble (b : Byte) : (b &&& 0x0F).toNat = b.toNat % 2 ^ 4 := by
  rw [BitVec.toNat_and]
  exact Nat.and_two_pow_sub_one_eq_mod b.toNat 4

theorem toNat_highNibble : ∀ b : Byte, (b &&& 0xF0).toNat = 2 ^ 4 * (b.toNat / 2 ^ 4) := by decide

/-- Base channel i as a number (R241). -/
theorem ibusBase_toNat (f : Memory) (o i : Nat) :
    (ibusBase f o i).toNat = (f.read (o + 2 * i)).toNat + 2 ^ 8 * ((f.read (o + 2 * i + 1)).toNat % 2 ^ 4) := by
  rw [ibusBase, le16_toNat, toNat_lowNibble]

/-- Three nibbles side by side. -/
theorem toNat_threeNibbles (a b c : Byte) :
    ((a >>> 4).setWidth 16 ||| (b &&& 0xF0).setWidth 16 ||| ((c &&& 0xF0).setWidth 16 <<< 4) : Half).toNat =
      a.toNat / 2 ^ 4 + 2 ^ 4 * (b.toNat / 2 ^ 4) + 2 ^ 8 * (c.toNat / 2 ^ 4) := by
  have ha : a.toNat / 2 ^ 4 < 2 ^ 4 := by omega
  have hb : b.toNat / 2 ^ 4 < 2 ^ 4 := by omega
  have hc : c.toNat / 2 ^ 4 < 2 ^ 4 := by omega
  have ea : ((a >>> 4).setWidth 16 : Half).toNat = a.toNat / 2 ^ 4 := by
    rw [BitVec.toNat_setWidth_of_le (by decide), BitVec.toNat_ushiftRight, Nat.shiftRight_eq_div_pow]
  have eb : ((b &&& 0xF0).setWidth 16 : Half).toNat = 2 ^ 4 * (b.toNat / 2 ^ 4) := by
    rw [BitVec.toNat_setWidth_of_le (by decide), toNat_highNibble]
  have ec : ((c &&& 0xF0).setWidth 16 <<< 4 : Half).toNat = 2 ^ 8 * (c.toNat / 2 ^ 4) := by
    rw [BitVec.toNat_shiftLeft, Nat.shiftLeft_eq, BitVec.toNat_setWidth_of_le (by decide), toNat_highNibble]
    omega
  rw [BitVec.toNat_or, BitVec.toNat_or, ea, eb, ec, Nat.or_comm (a.toNat / 2 ^ 4), ← Nat.two_pow_add_eq_or_of_lt ha, Nat.or_comm,
    ← Nat.two_pow_add_eq_or_of_lt (by omega)]
  omega

/-- Extension channel 14 + k as a number (R242). -/
theorem ibusExtension_toNat (f : Memory) (o k : Nat) :
    (ibusExtension f o k).toNat = (f.read (o + 1 + 6 * k)).toNat / 2 ^ 4
      + 2 ^ 4 * ((f.read (o + 1 + 6 * k + 2)).toNat / 2 ^ 4) + 2 ^ 8 * ((f.read (o + 1 + 6 * k + 4)).toNat / 2 ^ 4) :=
  toNat_threeNibbles _ _ _

theorem ibusChannels_getElem_base (f : Memory) (o : Nat) {i : Fin 18} (hi : i.val < 14) :
    (ibusChannels f o)[i] = ibusBase f o i.val := by
  simp [ibusChannels, ibusSlots, hi]

theorem ibusChannels_getElem_extension (f : Memory) (o : Nat) {i : Fin 18} {k : Nat} (hi : i.val = 14 + k) :
    (ibusChannels f o)[i] = ibusExtension f o k := by
  simp [ibusChannels, ibusSlots, hi]

/-- Settles O46: a frame of either shape that passes the check is unpacked to `ibusChannels`, read as numbers. -/
theorem ibusUnpackDecodesChannels : Obligations.IbusUnpackDecodesChannels := by
  intro s hempty hshape hsum
  have hlen : s.ibus.soffset.toNat + 30 ≤ s.ibus.dec.slen.toNat ∧ s.ibus.dec.slen.toNat ≤ ibusBuf := by
    obtain ⟨hslen, hoffset, -⟩ | ⟨hslen, hoffset, -⟩ := hshape <;> rw [hslen, hoffset] <;> decide
  have hok := (ibusFrameOk_iff s.ibus.dec.stable s.ibus.dec.slen.toNat s.ibus.soffset.toNat s.ibus.sseed).mpr ⟨hlen.1, hsum⟩
  refine ⟨ibusChannels s.ibus.dec.stable s.ibus.soffset.toNat, fun i hi => ?base, fun i k hi => ?extension, ?step⟩
  case base => rw [ibusChannels_getElem_base _ _ hi, ibusBase_toNat]
  case extension => rw [ibusChannels_getElem_extension _ _ hi, ibusExtension_toNat]
  case step => exact congrArg s.endIbus (ibusUnpack_of_frameOk hempty hlen.2 hok)

end Sys2Proof.Machine
end

section
/-! The start step of PT.BCAST_ID (spec/45_peer_transceiver.md R298). -/

namespace Sys2Proof.Machine

theorem ptBcastIdStart_zero (s : State) : ptBcastIdStart 0 s = s.finish 0 := if_pos rfl

theorem ptBcastIdStart_of_ne_zero {n : Byte} (h : n ≠ 0) (s : State) :
    ptBcastIdStart n s = State.proceed { s with pt := { s.pt with bidActive := true, bidLeft := n } } := if_neg h

/-- Settles O55: no send to perform ends the command, and any other number starts the announcement. -/
theorem ptBcastIdStarts : Obligations.PtBcastIdStarts := by
  intro s n dly
  refine ⟨?_, fun hn => congrArg Host.Outcome.next (ptBcastIdStart_of_ne_zero hn s)⟩
  rintro rfl
  exact congrArg Host.Outcome.next (ptBcastIdStart_zero s)

end Sys2Proof.Machine
end

section
/-! FPC.ENCODE (spec/40_fixed_point_codec.md R155 to R157): the rounded significand, the fields of the result, and the way back
through FPC.DECODE. -/

namespace Sys2Proof.Machine

/-! ## Rounding to nearest, ties to even -/

/-- How far the multiple `s` of `unit` lies above `mag`. -/
def roundErr (s unit mag : Nat) : Int := (s * unit : Nat) - (mag : Nat)

/-- `s` units are nearest `mag`, and `s` is even where another multiple is as near. -/
def IsNearestEven (s unit mag : Nat) : Prop :=
  2 * (roundErr s unit mag).natAbs ≤ unit ∧ (2 * (roundErr s unit mag).natAbs = unit → s % 2 = 0)

theorem natAbs_roundErr_mul (s unit mag c : Nat) :
    (roundErr s (unit * c) (mag * c)).natAbs = (roundErr s unit mag).natAbs * c := by
  have h : roundErr s (unit * c) (mag * c) = roundErr s unit mag * c := by
    simp only [roundErr, Nat.cast_mul]
    ring
  rw [h, Int.natAbs_mul, Int.natAbs_natCast]

theorem isNearestEven_mul {s unit mag c : Nat} (hc : 0 < c) (h : IsNearestEven s unit mag) :
    IsNearestEven s (unit * c) (mag * c) := by
  obtain ⟨hnear, htie⟩ := h
  rw [IsNearestEven, natAbs_roundErr_mul, ← Nat.mul_assoc]
  exact ⟨Nat.mul_le_mul_right c hnear, fun heq => htie (Nat.eq_of_mul_eq_mul_right hc heq)⟩

theorem isNearestEven_exact (s : Nat) {unit : Nat} (hunit : 0 < unit) : IsNearestEven s unit (s * unit) := by
  rw [IsNearestEven, roundErr]
  omega

theorem two_pow_mul_of_add_eq {a b c : Nat} (h : a + b = c) : 2 ^ a * 2 ^ b = 2 ^ c := by rw [← Nat.pow_add, h]

theorem roundSignificand_of_le {mag k : Nat} (h : k ≤ 23) : roundSignificand mag k = mag * 2 ^ (23 - k) := if_pos h

/-- A magnitude of at most 24 bits is only shifted. -/
theorem roundSignificand_exact {mag k : Nat} (h : k ≤ 23) :
    roundSignificand mag k * 2 ^ (116 + k) = mag * 2 ^ 139 := by
  rw [roundSignificand_of_le h, Nat.mul_assoc, two_pow_mul_of_add_eq (c := 139) (by omega)]

/-- The three comparisons of the remainder with half a unit: above rounds up, below rounds down, a tie goes to the even one. -/
theorem roundSignificand_nearest_unit {mag k : Nat} (h : 23 < k) :
    IsNearestEven (roundSignificand mag k) (2 ^ (k - 23)) mag := by
  rw [roundSignificand, if_neg (by omega), IsNearestEven, roundErr]
  have hunit := Nat.two_pow_pos (k - 23)
  have hdiv := Nat.div_add_mod' mag (2 ^ (k - 23))
  have hrem := Nat.mod_lt mag hunit
  dsimp only
  split_ifs with hup
  · have hnext := Nat.add_one_mul (mag / 2 ^ (k - 23)) (2 ^ (k - 23))
    omega
  · omega

/-- On the result's scale: the significand counts units of 2^(116 + k), where the magnitude is mag × 2^139 (R155, R156). -/
theorem roundSignificand_nearest (mag k : Nat) :
    IsNearestEven (roundSignificand mag k) (2 ^ (116 + k)) (mag * 2 ^ 139) := by
  by_cases hk : k ≤ 23
  case pos =>
    rw [← roundSignificand_exact hk]
    exact isNearestEven_exact _ (Nat.two_pow_pos _)
  case neg =>
    have hunit : 2 ^ (k - 23) * 2 ^ 139 = 2 ^ (116 + k) := two_pow_mul_of_add_eq (by omega)
    rw [← hunit]
    exact isNearestEven_mul (Nat.two_pow_pos 139) (roundSignificand_nearest_unit (Nat.lt_of_not_le hk))

theorem roundSignificand_lt_of_le {mag k : Nat} (hk : k ≤ 23) (hhi : mag < 2 ^ (k + 1)) : roundSignificand mag k < 2 ^ 24 := by
  calc roundSignificand mag k
    _ = mag * 2 ^ (23 - k) := roundSignificand_of_le hk
    _ < 2 ^ (k + 1) * 2 ^ (23 - k) := Nat.mul_lt_mul_of_pos_right hhi (Nat.two_pow_pos _)
    _ = 2 ^ 24 := two_pow_mul_of_add_eq (by omega)

theorem roundSignificand_bounds {mag k : Nat} (hlo : 2 ^ k ≤ mag) (hhi : mag < 2 ^ (k + 1)) :
    2 ^ 23 ≤ roundSignificand mag k ∧ roundSignificand mag k ≤ 2 ^ 24 := by
  by_cases hk : k ≤ 23
  case pos =>
    refine ⟨?_, Nat.le_of_lt (roundSignificand_lt_of_le hk hhi)⟩
    calc 2 ^ 23
      _ = 2 ^ k * 2 ^ (23 - k) := (two_pow_mul_of_add_eq (Nat.add_sub_cancel' hk)).symm
      _ ≤ mag * 2 ^ (23 - k) := Nat.mul_le_mul_right _ hlo
      _ = roundSignificand mag k := (roundSignificand_of_le hk).symm
  case neg =>
    have hpow (j : Nat) : 2 ^ (23 + j) * 2 ^ (k - 23) = 2 ^ (k + j) := two_pow_mul_of_add_eq (by omega)
    have hquot_lo : 2 ^ 23 ≤ mag / 2 ^ (k - 23) :=
      (Nat.le_div_iff_mul_le (Nat.two_pow_pos _)).mpr ((hpow 0).trans_le hlo)
    have hquot_hi : mag / 2 ^ (k - 23) < 2 ^ 24 :=
      (Nat.div_lt_iff_lt_mul (Nat.two_pow_pos _)).mpr (hhi.trans_eq (hpow 1).symm)
    rw [roundSignificand, if_neg hk]
    dsimp only
    split_ifs <;> omega

/-! ## The fields of FPC.ENCODE's result -/

/-- A word put together from a sign, an exponent and a mantissa has these fields (30_encoding.md R125). -/
theorem float_fields_ofNat (neg : Prop) [Decidable neg] {e m : Nat} {w : Word} (he : e < 2 ^ 8) (hm : m < 2 ^ 23)
    (hw : w = BitVec.ofNat 32 ((if neg then 2 ^ 31 else 0) + e * 2 ^ 23 + m)) :
    (floatSign w = true ↔ neg) ∧ floatExp w = e ∧ floatMant w = m := by
  have hval : w.toNat = (if neg then 2 ^ 31 else 0) + e * 2 ^ 23 + m := by
    rw [hw, BitVec.toNat_ofNat, Nat.mod_eq_of_lt]
    split_ifs <;> omega
  rw [floatSign_iff, floatExp_eq, floatMant_eq, hval]
  by_cases h : neg
  · simp only [h, if_true, iff_true]
    omega
  · simp only [h, if_false, iff_false]
    omega

/-- The magnitude FPC.ENCODE rounds. -/
def fpcOperandMag (q : Word) : Nat := q.toInt.natAbs

/-- The place of its top bit. -/
def fpcTopBit (q : Word) : Nat := Nat.log2 (fpcOperandMag q)

/-- Its rounded significand, 2^24 where the rounding carries. -/
def fpcSignificand (q : Word) : Nat := roundSignificand (fpcOperandMag q) (fpcTopBit q)

variable {q : Word}

theorem fpcOperandMag_ne_zero (hq : q ≠ 0) : fpcOperandMag q ≠ 0 := fun h =>
  hq (BitVec.eq_of_toInt_eq (Int.natAbs_eq_zero.mp h))

theorem fpcOperandMag_le (q : Word) : fpcOperandMag q ≤ 2 ^ 31 := by
  have hlo := BitVec.le_toInt q
  have hhi := BitVec.toInt_lt (x := q)
  rw [fpcOperandMag]
  omega

theorem fpcTopBit_spec (hq : q ≠ 0) : 2 ^ fpcTopBit q ≤ fpcOperandMag q ∧ fpcOperandMag q < 2 ^ (fpcTopBit q + 1) :=
  ⟨Nat.log2_self_le (fpcOperandMag_ne_zero hq), Nat.lt_log2_self⟩

theorem fpcTopBit_le (hq : q ≠ 0) : fpcTopBit q ≤ 31 :=
  (Nat.pow_le_pow_iff_right (by decide)).mp ((fpcTopBit_spec hq).1.trans (fpcOperandMag_le q))

/-- Only −2^31 has its top bit at 31, and it is exact. -/
theorem fpcTopBit_lt_of_carry (hq : q ≠ 0) (hcarry : fpcSignificand q = 2 ^ 24) : fpcTopBit q < 31 := by
  refine Nat.lt_of_le_of_ne (fpcTopBit_le hq) fun htop => ?_
  have hlo := (fpcTopBit_spec hq).1
  rw [htop] at hlo
  rw [fpcSignificand, htop, Nat.le_antisymm (fpcOperandMag_le q) hlo] at hcarry
  exact absurd hcarry (by decide)

theorem fpcEncodeValue_zero : fpcEncodeValue 0 = 0 := rfl

theorem fpcEncodeValue_of_ne_zero (hq : q ≠ 0) :
    fpcEncodeValue q = BitVec.ofNat 32 ((if q.toInt < 0 then 2 ^ 31 else 0)
      + (if fpcSignificand q = 2 ^ 24 then 116 + fpcTopBit q + 1 else 116 + fpcTopBit q) * 2 ^ 23
      + (if fpcSignificand q = 2 ^ 24 then 0 else fpcSignificand q - 2 ^ 23)) :=
  if_neg (fpcOperandMag_ne_zero hq)

/-- The result of FPC.ENCODE, with and without the rounding's carry into the exponent (R155). -/
theorem fpcEncodeValue_fields (hq : q ≠ 0) :
    (floatSign (fpcEncodeValue q) = true ↔ q.toInt < 0) ∧
      ((fpcSignificand q = 2 ^ 24 ∧ floatExp (fpcEncodeValue q) = 116 + fpcTopBit q + 1 ∧
          floatMant (fpcEncodeValue q) = 0) ∨
        (fpcSignificand q < 2 ^ 24 ∧ floatExp (fpcEncodeValue q) = 116 + fpcTopBit q ∧
          2 ^ 23 + floatMant (fpcEncodeValue q) = fpcSignificand q)) := by
  have htop := fpcTopBit_le hq
  obtain ⟨hlo, hhi⟩ : 2 ^ 23 ≤ fpcSignificand q ∧ fpcSignificand q ≤ 2 ^ 24 :=
    roundSignificand_bounds (fpcTopBit_spec hq).1 (fpcTopBit_spec hq).2
  have henc := fpcEncodeValue_of_ne_zero hq
  by_cases hcarry : fpcSignificand q = 2 ^ 24
  case pos =>
    rw [if_pos hcarry, if_pos hcarry] at henc
    obtain ⟨hsign, hexp, hmant⟩ := float_fields_ofNat (q.toInt < 0) (by omega) (by decide) henc
    exact ⟨hsign, .inl ⟨hcarry, hexp, hmant⟩⟩
  case neg =>
    rw [if_neg hcarry, if_neg hcarry] at henc
    obtain ⟨hsign, hexp, hmant⟩ := float_fields_ofNat (q.toInt < 0) (by omega) (by omega) henc
    exact ⟨hsign, .inr ⟨by omega, hexp, by omega⟩⟩

/-- Carry or not, the result's value is the rounded significand at the magnitude's exponent. -/
theorem fpcEncodeValue_value (hq : q ≠ 0) :
    (2 ^ 23 + floatMant (fpcEncodeValue q)) * 2 ^ floatExp (fpcEncodeValue q)
      = fpcSignificand q * 2 ^ (116 + fpcTopBit q) := by
  obtain ⟨-, ⟨hsig, hexp, hmant⟩ | ⟨-, hexp, hmant⟩⟩ := fpcEncodeValue_fields hq
  · rw [hsig, hexp, hmant, Nat.pow_succ 2 (116 + fpcTopBit q)]
    omega
  · rw [hexp, hmant]

theorem fpcEncodeValue_exp_bounds (hq : q ≠ 0) :
    116 ≤ floatExp (fpcEncodeValue q) ∧ floatExp (fpcEncodeValue q) ≤ 147 := by
  obtain ⟨-, ⟨hsig, hexp, -⟩ | ⟨-, hexp, -⟩⟩ := fpcEncodeValue_fields hq
  · have htop := fpcTopBit_lt_of_carry hq hsig
    omega
  · have htop := fpcTopBit_le hq
    omega

/-! ## Rounding, at the result's own spacing -/

/-- How far the result (`fpcEncodeValue_value`) lies above the magnitude / 2^11, both times 2^150 (R155). -/
def fpcEncodeErr (q : Word) : Int := roundErr (fpcSignificand q) (2 ^ (116 + fpcTopBit q)) (fpcOperandMag q * 2 ^ 139)

/-- After a carry the spacing has doubled, so half of it is not reached and the even mantissa 0 needs no tie. -/
theorem fpcEncodeErr_nearest (hq : q ≠ 0) :
    2 * (fpcEncodeErr q).natAbs ≤ 2 ^ floatExp (fpcEncodeValue q) ∧
      (2 * (fpcEncodeErr q).natAbs = 2 ^ floatExp (fpcEncodeValue q) → floatMant (fpcEncodeValue q) % 2 = 0) := by
  obtain ⟨hnear, htie⟩ : 2 * (fpcEncodeErr q).natAbs ≤ 2 ^ (116 + fpcTopBit q) ∧
    (2 * (fpcEncodeErr q).natAbs = 2 ^ (116 + fpcTopBit q) → fpcSignificand q % 2 = 0) := roundSignificand_nearest _ _
  obtain ⟨-, ⟨-, hexp, hmant⟩ | ⟨-, hexp, hmant⟩⟩ := fpcEncodeValue_fields hq
  · rw [hexp, hmant]
    exact ⟨hnear.trans (Nat.pow_le_pow_right (by decide) (Nat.le_succ _)), fun _ => rfl⟩
  · rw [hexp]
    refine ⟨hnear, fun heq => ?_⟩
    have heven := htie heq
    omega

/-- Below the least pattern of an exponent the spacing is half as wide: a carry rounds up by no more than half of that, and without
one the magnitude has its top bit at the result's and does not lie below it. -/
theorem fpcEncodeErr_powerOfTwo (hq : q ≠ 0) (hmant0 : floatMant (fpcEncodeValue q) = 0) (habove : 0 < fpcEncodeErr q) :
    4 * (fpcEncodeErr q).natAbs ≤ 2 ^ floatExp (fpcEncodeValue q) := by
  obtain ⟨-, ⟨-, hexp, -⟩ | ⟨-, -, hmant⟩⟩ := fpcEncodeValue_fields hq
  · have hnear : 2 * (fpcEncodeErr q).natAbs ≤ 2 ^ (116 + fpcTopBit q) := (roundSignificand_nearest _ _).1
    rw [hexp, Nat.pow_succ]
    omega
  · have hbelow : fpcSignificand q * 2 ^ (116 + fpcTopBit q) ≤ fpcOperandMag q * 2 ^ 139 := by
      calc fpcSignificand q * 2 ^ (116 + fpcTopBit q)
        _ = 2 ^ (23 + (116 + fpcTopBit q)) := by rw [← hmant, hmant0, Nat.add_zero, two_pow_mul_of_add_eq rfl]
        _ = 2 ^ fpcTopBit q * 2 ^ 139 := (two_pow_mul_of_add_eq (by omega)).symm
        _ ≤ fpcOperandMag q * 2 ^ 139 := Nat.mul_le_mul_right _ (fpcTopBit_spec hq).1
    rw [fpcEncodeErr, roundErr] at habove
    omega

/-- Settles O29: the fields of the result, and the rounding at its spacing. -/
theorem fpcEncodeRoundsToNearest : Obligations.FpcEncodeRoundsToNearest := by
  intro s q
  refine ⟨fpcEncodeValue q, rfl, fun hzero => hzero ▸ fpcEncodeValue_zero, fun hq => ?_⟩
  simp only [← floatExp_eq, ← floatMant_eq, ← floatSign_iff, fpcEncodeValue_value hq]
  obtain ⟨hexp_lo, hexp_hi⟩ := fpcEncodeValue_exp_bounds hq
  obtain ⟨hnear, htie⟩ := fpcEncodeErr_nearest hq
  exact ⟨(fpcEncodeValue_fields hq).1, hexp_lo, hexp_hi, hnear, htie, fpcEncodeErr_powerOfTwo hq⟩

/-! ## The round trip (R157) -/

/-- A magnitude below 2^24 fits the significand: nothing is rounded, and FPC.DECODE shifts it back. -/
theorem fpcDecodeValue_encode (h : fpcOperandMag q < 2 ^ 24) : fpcDecodeValue (fpcEncodeValue q) = q := by
  by_cases hq : q = 0
  case pos => rw [hq, fpcEncodeValue_zero, fpcDecodeValue_zero (by decide)]
  case neg =>
    obtain ⟨hlo, hhi⟩ := fpcTopBit_spec hq
    have htop : fpcTopBit q ≤ 23 :=
      Nat.le_of_lt_succ ((Nat.pow_lt_pow_iff_right (by decide)).mp (hlo.trans_lt h))
    have hnocarry : fpcSignificand q < 2 ^ 24 := roundSignificand_lt_of_le htop hhi
    obtain ⟨hsign, ⟨hcarry, -⟩ | ⟨-, hexp, -⟩⟩ := fpcEncodeValue_fields hq
    · omega
    · apply BitVec.eq_of_toInt_eq
      rw [fpcDecodeValue_shifted (by omega) (by omega), fpcEncodeValue_value hq, fpcSignificand,
        roundSignificand_exact htop, Nat.mul_div_cancel _ (Nat.two_pow_pos 139), fpcOperandMag]
      simp only [hsign]
      split_ifs <;> omega

/-- 2^24 is exact too, but its exponent is the first one FPC.DECODE leaves open (R153). -/
theorem floatExp_encode_of_two_pow_24 (h : fpcOperandMag q = 2 ^ 24) : floatExp (fpcEncodeValue q) = 140 := by
  have hq : q ≠ 0 := by
    rintro rfl
    exact absurd h (by decide)
  have htop : fpcTopBit q = 24 := by
    rw [fpcTopBit, h]
    exact Nat.log2_two_pow
  have hsig : fpcSignificand q = 2 ^ 23 := by
    rw [fpcSignificand, h, htop]
    decide
  obtain ⟨-, ⟨hcarry, -⟩ | ⟨-, hexp, -⟩⟩ := fpcEncodeValue_fields hq
  · omega
  · rw [hexp, htop]

/-- Settles O30: exact below 2^24, and the open branch at it. -/
theorem fpcRoundTrip : Obligations.FpcRoundTrip := by
  intro s q
  refine ⟨fpcEncodeValue q, rfl, fun hlt => ?below, fun heq => ?at_bound⟩
  case below => exact congrArg (fun v => Host.Outcome.next (s.finish v)) (fpcDecodeValue_encode hlt)
  case at_bound =>
    have hbig := fpcDecodeValue_big (floatExp_encode_of_two_pow_24 heq).ge
    exact congrArg (fun v => Host.Outcome.next (s.finish v)) hbig

end Sys2Proof.Machine
end

section
/-! The resync timeout (spec/41_crsf.md R172, spec/42_sbus.md R202, spec/43_ibus.md R233; spec/60_exceptions.md R402): a FEED is the
FEED of the unit after its timeout check, and that check is all that writes DROPPED. -/

namespace Sys2Proof.Machine

/-! ## The timeout check -/

/-- A second check at the same time finds no timeout: where the first fired, no frame is in progress any more. -/
theorem Decoder.resync_resync (d : Decoder) (now budget : Word) :
    (d.resync now budget).resync now budget = d.resync now budget := by
  obtain ⟨-, -, hfired⟩ | ⟨-, hkept⟩ := d.resync_cases now budget
  · rw [hfired]
    exact Decoder.resync_of_idx_zero now budget rfl
  · rw [hkept, hkept]

/-- DROPPED after the check. -/
theorem Decoder.resync_dropped (d : Decoder) (now budget : Word) :
    (d.resync now budget).dropped =
      d.dropped + if d.idx ≠ 0 ∧ budget.toNat < (now - d.start).toNat then 1 else 0 := by
  obtain ⟨hidx, hlate, hfired⟩ | ⟨hintime, hkept⟩ := d.resync_cases now budget
  · rw [hfired, if_pos ⟨hidx, hlate⟩]
  · rw [hkept, if_neg hintime]
    exact (BitVec.add_zero _).symm

/-! ## A late byte restarts the unit -/

/-- A FEED is the FEED of the unit after its timeout check (R172). -/
theorem crsfFeed_resync (u : CrsfUnit) (b : Byte) (now : Word) :
    crsfFeed { u with dec := u.dec.resync now crsfBudgetUs } b now = crsfFeed u b now := by
  simp only [crsfFeed, Decoder.resync_resync]

/-- As `crsfFeed_resync`, for SBUS. -/
theorem sbusFeed_resync (u : SbusUnit) (b : Byte) (now : Word) :
    sbusFeed { u with dec := u.dec.resync now sbusBudgetUs } b now = sbusFeed u b now := by
  simp only [sbusFeed, Decoder.resync_resync]

/-- As `crsfFeed_resync`, for IBUS. -/
theorem ibusFeed_resync (u : IbusUnit) (b : Byte) (now : Word) :
    ibusFeed { u with dec := u.dec.resync now ibusBudgetUs } b now = ibusFeed u b now := by
  simp only [ibusFeed, Decoder.resync_resync]

/-- The end of a unit's command replaces the whole unit: what stood there before it is not read. -/
theorem State.endCrsf_replace (s : State) (u : CrsfUnit) (x : Except Fault (CrsfUnit × Bool)) :
    State.endCrsf { s with crsf := u } x = s.endCrsf x := by cases x <;> rfl

/-- As `State.endCrsf_replace`, for SBUS. -/
theorem State.endSbus_replace (s : State) (u : SbusUnit) (x : Except Fault (SbusUnit × Bool)) :
    State.endSbus { s with sbus := u } x = s.endSbus x := by cases x <;> rfl

/-- As `State.endCrsf_replace`, for IBUS. -/
theorem State.endIbus_replace (s : State) (u : IbusUnit) (x : Except Fault (IbusUnit × Bool)) :
    State.endIbus { s with ibus := u } x = s.endIbus x := by cases x <;> rfl

/-- Settles O32: the unit the statement restarts is the unit after its timeout check, whose FEED is the late byte's FEED. -/
theorem feedAfterTimeoutRestarts : Obligations.FeedAfterTimeoutRestarts := by
  intro s b
  refine ⟨fun hidx hlate => ?crsf, fun hidx hlate => ?sbus, fun hidx hlate => ?ibus⟩
  case crsf =>
    rw [← Decoder.resync_of_expired (budget := crsfBudgetUs) hidx hlate]
    exact ((s.endCrsf_replace _ _).trans (congrArg s.endCrsf (crsfFeed_resync s.crsf b s.env.timeUs))).symm
  case sbus =>
    rw [← Decoder.resync_of_expired (budget := sbusBudgetUs) hidx hlate]
    exact ((s.endSbus_replace _ _).trans (congrArg s.endSbus (sbusFeed_resync s.sbus b s.env.timeUs))).symm
  case ibus =>
    rw [← Decoder.resync_of_expired (budget := ibusBudgetUs) hidx hlate]
    exact ((s.endIbus_replace _ _).trans (congrArg s.endIbus (ibusFeed_resync s.ibus b s.env.timeUs))).symm

/-! ## What writes DROPPED -/

/-- After its timeout check a FEED leaves DROPPED as it is. -/
theorem crsfFeed_dropped {u u' : CrsfUnit} {b : Byte} {now : Word} {r : Bool} (h : crsfFeed u b now = .ok (u', r)) :
    u'.dec.dropped = (u.dec.resync now crsfBudgetUs).dropped := by
  obtain ⟨-, -, -, rfl⟩ | ⟨-, -, -, rfl⟩ | ⟨-, -, -, rfl⟩ | ⟨-, -, -, rfl⟩ | ⟨-, -, hp⟩ := crsfFeed_cases h
  case inr.inr.inr.inr => obtain ⟨-, ⟨-, -, rfl⟩ | ⟨-, -, -, rfl⟩⟩ := crsfPayload_cases hp <;> rfl
  all_goals rfl

/-- As `crsfFeed_dropped`, for SBUS. -/
theorem sbusFeed_dropped {u u' : SbusUnit} {b : Byte} {now : Word} {r : Bool} (h : sbusFeed u b now = .ok (u', r)) :
    u'.dec.dropped = (u.dec.resync now sbusBudgetUs).dropped := by
  obtain ⟨-, -, -, rfl⟩ | ⟨-, -, -, rfl⟩ | ⟨-, hd⟩ := sbusFeed_cases h
  case inr.inr => obtain ⟨-, ⟨-, -, rfl⟩ | ⟨-, -, -, rfl⟩ | ⟨-, -, -, rfl⟩⟩ := sbusData_cases hd <;> rfl
  all_goals rfl

/-- As `crsfFeed_dropped`, for IBUS. -/
theorem ibusFeed_dropped {u u' : IbusUnit} {b : Byte} {now : Word} {r : Bool} (h : ibusFeed u b now = .ok (u', r)) :
    u'.dec.dropped = (u.dec.resync now ibusBudgetUs).dropped := by
  obtain ⟨-, -, v, -, rfl⟩ | ⟨-, -, -, rfl⟩ | ⟨-, hd⟩ := ibusFeed_cases h
  case inr.inr => obtain ⟨-, ⟨-, -, rfl⟩ | ⟨-, -, -, rfl⟩ | ⟨-, -, -, -, rfl⟩⟩ := ibusData_cases hd <;> rfl
  all_goals rfl

/-- UNPACK leaves DROPPED as it is (R180). -/
theorem crsfUnpack_dropped {u u' : CrsfUnit} {r : Bool} (h : crsfUnpack u = .ok (u', r)) : u'.dec.dropped = u.dec.dropped := by
  obtain ⟨-, -, rfl⟩ | ⟨-, -, rfl⟩ | ⟨-, -, -, -, -, rfl⟩ := crsfUnpack_cases h <;> rfl

/-- As `crsfUnpack_dropped`, for SBUS (R210). -/
theorem sbusUnpack_dropped {u u' : SbusUnit} {r : Bool} (h : sbusUnpack u = (u', r)) : u'.dec.dropped = u.dec.dropped := by
  obtain ⟨-, e⟩ | ⟨-, e⟩ := sbusUnpack_cases u <;> cases e.symm.trans h <;> rfl

/-- As `crsfUnpack_dropped`, for IBUS (R240). -/
theorem ibusUnpack_dropped {u u' : IbusUnit} {r : Bool} (h : ibusUnpack u = .ok (u', r)) : u'.dec.dropped = u.dec.dropped := by
  obtain ⟨-, -, rfl⟩ | ⟨-, -, rfl⟩ | ⟨-, -, -, rfl⟩ := ibusUnpack_cases h <;> rfl

variable {i : Instr} {s s' : State}

/-- A command other than CRSF.FEED leaves CRSF's DROPPED as it is. -/
theorem Effect.crsf_dropped_of_not_feed (h : Effect i s s') (hi : ¬ ∃ b, i = .crsfFeed b) :
    s'.crsf.dec.dropped = s.crsf.dec.dropped := by
  cases h with
  | take _ _ t v _ => obtain e | e := s.clearReady_crsf t <;> exact congrArg (·.dec.dropped) e
  | crsfFeed _ b u r hu => exact absurd ⟨b, rfl⟩ hi
  | crsfUnpack _ u r hu => exact crsfUnpack_dropped hu
  | _ => rfl

/-- As `Effect.crsf_dropped_of_not_feed`, for SBUS. -/
theorem Effect.sbus_dropped_of_not_feed (h : Effect i s s') (hi : ¬ ∃ b, i = .sbusFeed b) :
    s'.sbus.dec.dropped = s.sbus.dec.dropped := by
  cases h with
  | take _ _ t v _ => obtain e | e := s.clearReady_sbus t <;> exact congrArg (·.dec.dropped) e
  | sbusFeed _ b u r hu => exact absurd ⟨b, rfl⟩ hi
  | sbusUnpack _ u r hu => exact sbusUnpack_dropped hu
  | _ => rfl

/-- As `Effect.crsf_dropped_of_not_feed`, for IBUS. -/
theorem Effect.ibus_dropped_of_not_feed (h : Effect i s s') (hi : ¬ ∃ b, i = .ibusFeed b) :
    s'.ibus.dec.dropped = s.ibus.dec.dropped := by
  cases h with
  | take _ _ t v _ => obtain e | e := s.clearReady_ibus t <;> exact congrArg (·.dec.dropped) e
  | ibusFeed _ b u r hu => exact absurd ⟨b, rfl⟩ hi
  | ibusUnpack _ u r hu => exact ibusUnpack_dropped hu
  | _ => rfl

/-- DROPPED counts timeouts alone where a FEED leaves it as its timeout check does, and no other command touches it. -/
theorem Decoder.dropped_eq_add_ite {d d' : Decoder} {now budget : Word} {feeds : Prop}
    [Decidable (feeds ∧ d.idx ≠ 0 ∧ budget.toNat < (now - d.start).toNat)]
    (hfeed : feeds → d'.dropped = (d.resync now budget).dropped) (hother : ¬ feeds → d'.dropped = d.dropped) :
    d'.dropped = d.dropped + if feeds ∧ d.idx ≠ 0 ∧ budget.toNat < (now - d.start).toNat then 1 else 0 := by
  by_cases h : feeds
  · simp only [hfeed h, Decoder.resync_dropped, h, true_and]
  · simp [hother h, h]

/-- Settles O33: a FEED leaves DROPPED as its timeout check does, and any other command leaves it alone. -/
theorem droppedCountsTimeoutsOnly : Obligations.DroppedCountsTimeoutsOnly := by
  intro i s s' h
  have he := exec_effect h
  refine ⟨?crsf, ?sbus, ?ibus⟩
  case crsf =>
    refine Decoder.dropped_eq_add_ite (budget := crsfBudgetUs) ?_ he.crsf_dropped_of_not_feed
    rintro ⟨b, rfl⟩
    obtain ⟨u, r, hu, rfl⟩ := State.endCrsf_next h
    exact crsfFeed_dropped hu
  case sbus =>
    refine Decoder.dropped_eq_add_ite (budget := sbusBudgetUs) ?_ he.sbus_dropped_of_not_feed
    rintro ⟨b, rfl⟩
    obtain ⟨u, r, hu, rfl⟩ := State.endSbus_next h
    exact sbusFeed_dropped hu
  case ibus =>
    refine Decoder.dropped_eq_add_ite (budget := ibusBudgetUs) ?_ he.ibus_dropped_of_not_feed
    rintro ⟨b, rfl⟩
    obtain ⟨u, r, hu, rfl⟩ := State.endIbus_next h
    exact ibusFeed_dropped hu

end Sys2Proof.Machine
end

section
/-! The bytes of a CRSF frame by their index (spec/41_crsf.md R173 to R176): what CRSF.FEED does at index 0, at the length byte and
at each byte after it. -/

namespace Sys2Proof.Machine

/-- CRSF.FEED ends with what the unit's FEED answers (R171). -/
theorem exec_crsfFeed_of_feed {s : State} {b : Byte} {u : CrsfUnit} {r : Bool}
    (h : crsfFeed s.crsf b s.env.timeUs = .ok (u, r)) :
    exec (.crsfFeed b) s = .next { s with crsf := u, reply := some ⟨.ok, boolWord r, []⟩ } :=
  congrArg s.endCrsf h

/-- A byte at index 0 that is no sync byte (R173). -/
theorem crsfFeed_reject {u : CrsfUnit} {b : Byte} (now : Word) (hidx : u.dec.idx = 0)
    (hb : ¬ (b = crsfSyncA ∨ b = crsfSyncB)) : crsfFeed u b now = .ok ({ u with dec := u.dec.reject }, false) := by
  simp only [crsfFeed, Decoder.resync_of_idx_zero now crsfBudgetUs hidx, hidx, hb, if_true, if_false]

/-- A length byte out of range (R174). -/
theorem crsfFeed_abandon {u : CrsfUnit} {b : Byte} {now : Word} (hidx : u.dec.idx = 1)
    (ht : (now - u.dec.start).toNat ≤ crsfBudgetUs.toNat) (hb : b < crsfLenMin ∨ crsfLenMax < b) :
    crsfFeed u b now = .ok ({ u with dec := { u.dec with idx := 0 } }, false) := by
  have hne : (1 : Byte) ≠ 0 := by decide
  simp only [crsfFeed, Decoder.resync_in_time ht, hidx, hne, if_true, if_false, crsfLength, hb]

/-- The lengths that abandon a frame, as numbers (R174). -/
theorem crsf_length_refused_iff (b : Byte) : (b < crsfLenMin ∨ crsfLenMax < b) ↔ b.toNat < 2 ∨ 62 < b.toNat := Iff.rfl

/-- Settles O31: a sync byte is accepted (`crsfFeed_sync`), any other rejected. -/
theorem crsfFeedAtIndexZero : Obligations.CrsfFeedAtIndexZero := by
  intro s b hidx
  refine ⟨fun hsync hwork => ⟨s.crsf.dec.work.write 0 b, fun k => Memory.read_write hwork 0 k b, ?sync⟩, fun hA hB => ?other⟩
  case sync => exact exec_crsfFeed_of_feed (crsfFeed_sync s.env.timeUs hidx hsync)
  case other => exact exec_crsfFeed_of_feed (crsfFeed_reject s.env.timeUs hidx (not_or.mpr ⟨hA, hB⟩))

/-- Settles O34: a length in range is stored (`crsfFeed_length`), any other abandons the frame. -/
theorem crsfFeedLengthByte : Obligations.CrsfFeedLengthByte := by
  intro s b hidx htime
  refine ⟨fun hmin hmax hwork => ⟨s.crsf.dec.work.write 1 b, fun k => Memory.read_write hwork 1 k b, ?inRange⟩,
    fun hout => ?outOfRange⟩
  case inRange =>
    have hlen : ¬ (b < crsfLenMin ∨ crsfLenMax < b) := by rw [crsf_length_refused_iff]; omega
    exact exec_crsfFeed_of_feed (crsfFeed_length hidx htime hlen)
  case outOfRange => exact exec_crsfFeed_of_feed (crsfFeed_abandon hidx htime ((crsf_length_refused_iff b).mpr hout))

/-- Settles O35: a byte before the last is stored (`crsfPayload_more`), the last completes the frame (`crsfPayload_last`). -/
theorem crsfFeedPayloadByte : Obligations.CrsfFeedPayloadByte := by
  intro s b hidx hbuf htime hwork hstable
  have hnext : (s.crsf.dec.idx + 1).toNat = s.crsf.dec.idx.toNat + 1 := by bv_omega
  have hfeed := crsfFeed_eq_payload (b := b) hidx htime
  refine ⟨s.crsf.dec.work.write s.crsf.dec.idx.toNat b, fun k => Memory.read_write hwork _ k b, fun hne => ?more,
    fun heq => ⟨_, Memory.read_publish hstable s.crsf.target.toNat, ?last⟩⟩
  case more =>
    have hmore : s.crsf.dec.idx + 1 ≠ s.crsf.target := fun h => hne (hnext.symm.trans (congrArg BitVec.toNat h))
    exact exec_crsfFeed_of_feed (hfeed.trans (crsfPayload_more b hbuf hmore))
  case last =>
    have hlast : s.crsf.dec.idx + 1 = s.crsf.target := BitVec.eq_of_toNat_eq (hnext.trans heq)
    have hfits : s.crsf.target.toNat ≤ crsfBuf := heq ▸ hbuf
    exact exec_crsfFeed_of_feed (hfeed.trans (crsfPayload_last b hbuf hlast hfits))

end Sys2Proof.Machine
end

section
/-! CRSF.UNPACK (spec/41_crsf.md R180 to R184): which published frames are RC-channels frames, and what UNPACK does with the others. -/

namespace Sys2Proof.Machine

/-- An RC-channels frame (R180, R183): its length, its type and its CRC. -/
def CrsfUnit.HoldsRcFrame (u : CrsfUnit) : Prop :=
  u.dec.slen = 26 ∧ u.dec.stable.read 2 = 0x16 ∧ crc8 0 (u.dec.stable.bytes 2 23) = u.dec.stable.read 25

variable {u : CrsfUnit}

/-- The checks of R180, R183 and R184 pass on exactly the RC-channels frames. -/
theorem CrsfUnit.holdsRcFrame_iff : u.HoldsRcFrame ↔
    crsfFrameOk u.dec.stable u.dec.slen.toNat = true ∧ u.dec.stable.read 2 = crsfTypeRc ∧ u.dec.slen.toNat = crsfRcLen + 2 := by
  have hslen : u.dec.slen.toNat = crsfRcLen + 2 ↔ u.dec.slen = 26 := BitVec.toNat_inj (y := 26)
  have hcrc (hlen : u.dec.slen = 26) :
      crsfFrameOk u.dec.stable u.dec.slen.toNat = true ↔ crc8 0 (u.dec.stable.bytes 2 23) = u.dec.stable.read 25 := by
    rw [hlen, crsfFrameOk, Bool.and_eq_true, decide_eq_true_iff, decide_eq_true_iff]
    exact and_iff_right (by decide)
  rw [CrsfUnit.HoldsRcFrame, hslen]
  constructor
  · rintro ⟨hlen, htype, hsum⟩
    exact ⟨(hcrc hlen).mpr hsum, htype, hlen⟩
  · rintro ⟨hok, htype, hlen⟩
    exact ⟨hlen, htype, (hcrc hlen).mp hok⟩

/-- An empty unit gives nothing (R180). -/
theorem crsfUnpack_of_empty (hempty : u.dec.empty = true) : crsfUnpack u = .ok (u, false) := if_pos hempty

/-- An RC-channels frame gives its channels (R180, R181). -/
theorem crsfUnpack_of_rcFrame (hfull : u.dec.empty = false) (h : u.HoldsRcFrame) :
    crsfUnpack u = .ok ({ u with ch := crsfChannels u.dec.stable, dec := { u.dec with empty := true } }, true) := by
  obtain ⟨hok, htype, hlen⟩ := CrsfUnit.holdsRcFrame_iff.mp h
  have hinside : ¬ crsfBuf < u.dec.slen.toNat := by rw [hlen]; decide
  have hrc : ¬ (u.dec.stable.read 2 ≠ crsfTypeRc ∨ u.dec.slen.toNat ≠ crsfRcLen + 2) := by simp [htype, hlen]
  simp only [crsfUnpack, hfull, hinside, hok, hrc, Bool.false_eq_true, Bool.not_true, if_false]

/-- Any other frame is consumed, whichever check it fails (R180, R183, R184). -/
theorem crsfUnpack_of_not_rcFrame (hfull : u.dec.empty = false) (hfits : u.dec.slen.toNat ≤ crsfBuf) (h : ¬ u.HoldsRcFrame) :
    crsfUnpack u = .ok ({ u with dec := { u.dec with empty := true } }, false) := by
  have hinside : ¬ crsfBuf < u.dec.slen.toNat := by omega
  rw [CrsfUnit.holdsRcFrame_iff] at h
  cases hok : crsfFrameOk u.dec.stable u.dec.slen.toNat with
  | false => simp only [crsfUnpack, hfull, hinside, hok, Bool.false_eq_true, Bool.not_false, if_true, if_false]
  | true =>
    have hother : u.dec.stable.read 2 ≠ crsfTypeRc ∨ u.dec.slen.toNat ≠ crsfRcLen + 2 :=
      not_and_or.mp fun hrc => h ⟨hok, hrc⟩
    simp only [crsfUnpack, hfull, hinside, hok, hother, Bool.false_eq_true, Bool.not_true, if_true, if_false]

/-- Settles O37: the channels are `crsfChannels` of the published frame, read bit by bit. -/
theorem crsfUnpackDecodesChannels : Obligations.CrsfUnpackDecodesChannels := by
  intro s hfull hlen htype hcrc
  refine ⟨crsfChannels s.crsf.dec.stable, fun i j => ?channel, ?step⟩
  case channel =>
    rw [crsfChannels_getElem]
    exact getLsbD_packedChannel_bytes s.crsf.dec.stable (by omega)
  case step => exact congrArg s.endCrsf (crsfUnpack_of_rcFrame hfull ⟨hlen, htype, hcrc⟩)

/-- Settles O38: an empty unit, and a frame that fails one of the checks. -/
theorem crsfUnpackRejects : Obligations.CrsfUnpackRejects := by
  intro s
  refine ⟨fun hempty => ?empty, fun hfull hfits hbad => ?bad⟩
  case empty => exact congrArg s.endCrsf (crsfUnpack_of_empty hempty)
  case bad =>
    have hnot : ¬ s.crsf.HoldsRcFrame := by
      rintro ⟨hlen, htype, hcrc⟩
      exact hbad.elim (· hlen) (Or.elim · (· htype) (· hcrc))
    exact congrArg s.endCrsf (crsfUnpack_of_not_rcFrame hfull hfits hnot)

end Sys2Proof.Machine
end

section
/-! The bytes of an SBUS frame by their index (spec/42_sbus.md R203 to R205): what SBUS.FEED does at index 0, at each byte after it
and at the end byte. -/

namespace Sys2Proof.Machine

/-- SBUS.FEED ends with what the unit's FEED answers (R201). -/
theorem exec_sbusFeed_of_feed {s : State} {b : Byte} {u : SbusUnit} {r : Bool}
    (h : sbusFeed s.sbus b s.env.timeUs = .ok (u, r)) :
    exec (.sbusFeed b) s = .next { s with sbus := u, reply := some ⟨.ok, boolWord r, []⟩ } :=
  congrArg s.endSbus h

/-- A byte at index 0 that does not start a frame (R203). -/
theorem sbusFeed_reject {u : SbusUnit} {b : Byte} (now : Word) (hidx : u.dec.idx = 0) (hb : b ≠ sbusStart) :
    sbusFeed u b now = .ok ({ u with dec := u.dec.reject }, false) := by
  simp only [sbusFeed, Decoder.resync_of_idx_zero now sbusBudgetUs hidx, hidx, hb, if_true, if_false]

/-- A 25th byte that is no end byte (R205): the frame is discarded and counted as an error. -/
theorem sbusData_discard {u : SbusUnit} {b : Byte} (hidx : u.dec.idx = 24) (hw : u.dec.work.wf = true) (hb : b ≠ sbusEnd) :
    sbusData u b = .ok ({ u with
      errors := u.errors + 1, dec := { u.dec with work := u.dec.work.write u.dec.idx.toNat b, idx := 0 } }, false) := by
  have hnat : u.dec.idx.toNat = 24 := by rw [hidx]; rfl
  have hbuf : u.dec.idx.toNat < sbusFrame := by rw [hnat]; decide
  have hlast : u.dec.idx + 1 = BitVec.ofNat 8 sbusFrame := by rw [hidx]; rfl
  have hread : (u.dec.work.write u.dec.idx.toNat b).read 24 = b := hnat ▸ Memory.read_write_same hw 24 b
  simp only [sbusData, Decoder.store_eq hbuf, hlast, hread, ne_eq, hb, not_false_eq_true, if_true]

/-- Settles O40: the start byte is accepted (`sbusFeed_start`), any other rejected. -/
theorem sbusFeedAtIndexZero : Obligations.SbusFeedAtIndexZero := by
  intro s b hidx
  refine ⟨fun hstart hwork => ⟨s.sbus.dec.work.write 0 b, fun k => Memory.read_write hwork 0 k b, ?start⟩, fun hother => ?other⟩
  case start =>
    subst hstart
    exact exec_sbusFeed_of_feed (sbusFeed_start s.env.timeUs hidx)
  case other => exact exec_sbusFeed_of_feed (sbusFeed_reject s.env.timeUs hidx hother)

/-- Settles O41: a byte before the 25th is stored (`sbusData_more`); the 25th completes the frame (`sbusData_end`) or discards it
(`sbusData_discard`). -/
theorem sbusFeedDataByte : Obligations.SbusFeedDataByte := by
  intro s b hlo _ htime hwork hstable
  have hidx : s.sbus.dec.idx ≠ 0 := by bv_omega
  have hfeed := sbusFeed_eq_data (b := b) hidx htime
  refine ⟨s.sbus.dec.work.write s.sbus.dec.idx.toNat b, fun k => Memory.read_write hwork _ k b, fun hmore => ?more,
    fun h24 hne => ?discard, fun h24 hend => ⟨_, Memory.read_publish hstable 25, ?publish⟩⟩
  case more => exact exec_sbusFeed_of_feed (hfeed.trans (sbusData_more b hmore))
  case discard => exact exec_sbusFeed_of_feed (hfeed.trans (sbusData_discard (BitVec.eq_of_toNat_eq h24) hwork hne))
  case publish =>
    subst hend
    exact exec_sbusFeed_of_feed (hfeed.trans (sbusData_end (BitVec.eq_of_toNat_eq h24) hwork))

end Sys2Proof.Machine
end

section
/-! The PWM readout of the channels (spec/46_decoder_interface.md R331, R341, R351, R360; spec/42_sbus.md R212, R213): the channel
register an index names, and each unit's map of it. -/

namespace Sys2Proof.Machine

section
variable {n : Nat} {ch : Vector Half n} {i : Byte}

/-- An index below the channel count names its register (R360). -/
theorem channelAt_of_lt (h : i.toNat < n) : channelAt ch i = some ch[i.toNat] := dif_pos h

/-- An index at or above the channel count names none (R360). -/
theorem channelAt_of_le (h : n ≤ i.toNat) : channelAt ch i = none := dif_neg (Nat.not_lt.mpr h)

theorem channelRaw_of_lt (h : i.toNat < n) : channelRaw ch i = ch[i.toNat].setWidth 32 := by
  rw [channelRaw, channelAt_of_lt h]

theorem channelRaw_of_le (h : n ≤ i.toNat) : channelRaw ch i = channelLow := by
  rw [channelRaw, channelAt_of_le h]

end

section
variable {ch : Vector Half sbusChCount} {i : Byte}

/-- A data channel is mapped linearly (R213). -/
theorem sbusPwm_data (h : i.toNat < sbusChCount) (hdata : i.toNat < sbusDataChannels) :
    sbusPwm ch i = sbusPwmOf ch[i.toNat] := by
  simp only [sbusPwm, channelAt_of_lt h, hdata, if_true]

/-- A flag channel is mapped to one of two values (R212, R341). -/
theorem sbusPwm_flag (h : i.toNat < sbusChCount) (hflag : sbusDataChannels ≤ i.toNat) :
    sbusPwm ch i = sbusFlagPwmOf ch[i.toNat] := by
  simp only [sbusPwm, channelAt_of_lt h, Nat.not_lt.mpr hflag, if_false]

theorem sbusPwm_of_le (h : sbusChCount ≤ i.toNat) : sbusPwm ch i = channelLow := by
  rw [sbusPwm, channelAt_of_le h]

end

/-- The map of a data channel loses nothing in the 32-bit result (R213). -/
theorem sbusPwmOf_toNat (v : Half) : (sbusPwmOf v).toNat = v.toNat * 5 / 8 + 880 := by
  have hfits : v.toNat * 5 / 8 + 880 < 2 ^ 32 := by omega
  exact (BitVec.toNat_ofNat ..).trans (Nat.mod_eq_of_lt hfits)

section
variable {s : State} {i : Byte}

/-- CRSF.CHPWM of an index with a register (R331). -/
theorem exec_crsfChpwm_of_lt (h : i.toNat < crsfChCount) :
    exec (.crsfChpwm i) s = .next (s.finish (crsfPwmOf s.crsf.ch[i.toNat])) := by
  rw [exec, execCrsfChpwm, channelAt_of_lt h]

/-- CRSF.CHPWM of an index out of range (R331, R360). -/
theorem exec_crsfChpwm_of_le (h : crsfChCount ≤ i.toNat) : exec (.crsfChpwm i) s = .next (s.finish channelLow) := by
  rw [exec, execCrsfChpwm, channelAt_of_le h]

/-- SBUS.CHPWM answers the unit's PWM value (R341). -/
theorem exec_sbusChpwm_of_pwm {v : Word} (h : sbusPwm s.sbus.ch i = v) : exec (.sbusChpwm i) s = .next (s.finish v) :=
  h ▸ rfl

/-- IBUS.CHPWM answers the raw value (R351). -/
theorem exec_ibusChpwm_of_raw {v : Word} (h : channelRaw s.ibus.ch i = v) : exec (.ibusChpwm i) s = .next (s.finish v) :=
  h ▸ rfl

end

/-- Settles O19: per unit, the index ranges with a register and the indices beyond them. -/
theorem channelPwmReadout : Obligations.ChannelPwmReadout := by
  intro s i
  refine ⟨fun h16 => ⟨?crsf, _, ?sbusData, sbusPwmOf_toNat _⟩, ?crsfOut, fun h18 => ⟨fun hflag => ?sbusFlag, ?ibus⟩,
    fun hout => ⟨?sbusOut, ?ibusOut⟩⟩
  case crsf => exact exec_crsfChpwm_of_lt h16
  case sbusData => exact exec_sbusChpwm_of_pwm (sbusPwm_data (Nat.lt_of_lt_of_le h16 (by decide)) h16)
  case crsfOut => exact exec_crsfChpwm_of_le
  case sbusFlag => exact exec_sbusChpwm_of_pwm (sbusPwm_flag h18 hflag)
  case ibus => exact exec_ibusChpwm_of_raw (channelRaw_of_lt h18)
  case sbusOut => exact exec_sbusChpwm_of_pwm (sbusPwm_of_le hout)
  case ibusOut => exact exec_ibusChpwm_of_raw (channelRaw_of_le hout)

end Sys2Proof.Machine
end

section
/-! The IBUS checksum against a damaged byte (spec/43_ibus.md R240, spec/44_validators.md R265, R266): any other value of one slot or
checksum byte makes a frame that passed fail. -/

namespace Sys2Proof.Machine

/-- A byte pair determines its two bytes. -/
theorem le16_inj {lo hi lo' hi' : Byte} : le16 lo hi = le16 lo' hi' ↔ lo = lo' ∧ hi = hi' := by
  rw [← BitVec.toNat_inj, le16_toNat, le16_toNat, ← BitVec.toNat_inj, ← BitVec.toNat_inj]
  omega

/-- Sums of the same bytes from different seeds differ (R265). -/
theorem sum16_seed_inj {x y : Half} : ∀ bs : List Byte, sum16 x bs = sum16 y bs → x = y
  | _ :: _ :: rest, h => (BitVec.add_left_inj _).mp (sum16_seed_inj rest h)
  | [_], h => h
  | [], h => h

section
variable {f f' : Memory} {j : Nat}

/-- Slots that differ in one byte have different sums: the pair that holds the byte moves the running sum, and the pairs after it
move both sums alike. -/
theorem sum16_slots_ne_of_one_byte (hsame : ∀ i ≠ j, f'.read i = f.read i) (hdiff : f'.read j ≠ f.read j)
    {n o : Nat} (hlo : o ≤ j) (hhi : j < o + 2 * n) (seed : Half) :
    sum16 seed (f'.bytes o (2 * n)) ≠ sum16 seed (f.bytes o (2 * n)) := by
  induction n generalizing o seed with
  | zero => omega
  | succ n ih =>
    simp only [Nat.mul_succ, Memory.bytes_succ, sum16_cons]
    by_cases hfirst : j < o + 2
    case pos =>
      have hrest : f'.bytes (o + 1 + 1) (2 * n) = f.bytes (o + 1 + 1) (2 * n) :=
        Memory.bytes_congr fun k _ => hsame _ (by omega)
      rw [hrest]
      intro hsum
      obtain ⟨hlow, hhigh⟩ := le16_inj.mp ((BitVec.add_right_inj _).mp (sum16_seed_inj _ hsum))
      obtain rfl | rfl : j = o ∨ j = o + 1 := by omega
      · exact hdiff hlow
      · exact hdiff hhigh
    case neg =>
      rw [hsame o (by omega), hsame (o + 1) (by omega)]
      exact ih (by omega) (by omega) _

/-- The frame check (R266) in the model's own words: the frame is long enough, and the sum of its slots is its checksum. -/
theorem ibusFrameOk_iff_sum16 (f : Memory) (n o : Nat) (seed : Half) :
    ibusFrameOk f n o seed = true ↔ o + 30 ≤ n ∧ sum16 seed (f.bytes o (2 * 14)) = le16 (f.read (n - 2)) (f.read (n - 1)) := by
  rw [ibusFrameOk, Bool.and_eq_true, decide_eq_true_iff, decide_eq_true_iff]
  rfl

/-- A frame that passed fails once one covered byte has another value: a slot byte moves the sum and not the checksum, a checksum
byte the checksum and not the sum. -/
theorem ibusFrameOk_eq_false_of_one_byte {n o : Nat} {seed : Half} (hok : ibusFrameOk f n o seed = true)
    (hcovered : (o ≤ j ∧ j < o + 28) ∨ j = n - 2 ∨ j = n - 1)
    (hsame : ∀ i ≠ j, f'.read i = f.read i) (hdiff : f'.read j ≠ f.read j) : ibusFrameOk f' n o seed = false := by
  obtain ⟨hlen, hsum⟩ := (ibusFrameOk_iff_sum16 ..).mp hok
  rw [← Bool.not_eq_true, ibusFrameOk_iff_sum16]
  rintro ⟨-, hsum'⟩
  obtain ⟨hlo, hhi⟩ | hchecksum := hcovered
  case inl =>
    rw [hsame (n - 2) (by omega), hsame (n - 1) (by omega), ← hsum] at hsum'
    exact sum16_slots_ne_of_one_byte hsame hdiff hlo hhi seed hsum'
  case inr =>
    have hslots : f'.bytes o (2 * 14) = f.bytes o (2 * 14) := Memory.bytes_congr fun k _ => hsame _ (by omega)
    rw [hslots, hsum] at hsum'
    obtain ⟨hlow, hhigh⟩ := le16_inj.mp hsum'
    obtain rfl | rfl := hchecksum
    · exact hdiff hlow.symm
    · exact hdiff hhigh.symm

end

/-- Flipping a bit changes a byte. -/
theorem xor_bit_ne (b : Byte) {k : Nat} (hk : k < 8) : b ^^^ (1#8 <<< k) ≠ b := by
  intro h
  have hbit := congrArg (·.getLsbD k) h
  simp [hk] at hbit

/-- Settles O27: the flipped byte has another value, every other byte its own (`ibusFrameOk_eq_false_of_one_byte`). -/
theorem ibusSingleBitFlipDetected : Obligations.IbusSingleBitFlipDetected := by
  intro f n o seed j k hwf hok hk hcovered
  refine ibusFrameOk_eq_false_of_one_byte hok hcovered (fun i hi => Memory.read_write_other f _ hi) ?_
  rw [Memory.read_write_same hwf]
  exact xor_bit_ne _ hk

end Sys2Proof.Machine
end

section
/-! The bytes of an IBUS frame by their index (spec/43_ibus.md R232 to R236): what IBUS.FEED does at index 0, at each byte after it
and at the last byte. -/

namespace Sys2Proof.Machine

/-- IBUS.FEED ends with what the unit's FEED answers (R231). -/
theorem exec_ibusFeed_of_feed {s : State} {b : Byte} {u : IbusUnit} {r : Bool}
    (h : ibusFeed s.ibus b s.env.timeUs = .ok (u, r)) :
    exec (.ibusFeed b) s = .next { s with ibus := u, reply := some ⟨.ok, boolWord r, []⟩ } :=
  congrArg s.endIbus h

variable {u : IbusUnit} {b : Byte}

/-! ## The byte at index 0 -/

/-- The first byte of an IA6B frame, full-length or telemetry (R232). -/
theorem ibusDetect_ia6b (u : IbusUnit) (hb : b = ibusSyncIa6b ∨ b = ibusSyncTelemetry) :
    ibusDetect u b = some { u with model := .ia6b, offset := ibusOffsetIa6b, size := b, seed := ibusSeedIa6b } := if_pos hb

/-- The first byte of an IA6 frame (R232). -/
theorem ibusDetect_ia6 (u : IbusUnit) :
    ibusDetect u ibusSyncIa6 =
      some { u with model := .ia6, offset := ibusOffsetIa6, size := ibusFrameIa6, seed := ibusSeedIa6 } := rfl

/-- A byte that starts no frame (R232). -/
theorem ibusDetect_other (u : IbusUnit) (hb : ¬ (b = ibusSyncIa6b ∨ b = ibusSyncTelemetry)) (hb' : b ≠ ibusSyncIa6) :
    ibusDetect u b = none := by
  simp only [ibusDetect, hb, hb', if_false]

/-- A byte that selects a model latches it and starts a frame (R232). -/
theorem ibusFeed_detect {v : IbusUnit} (now : Word) (hidx : u.dec.idx = 0) (hv : ibusDetect u b = some v) :
    ibusFeed u b now = .ok ({ v with dec := v.dec.accept b now }, false) := by
  simp only [ibusFeed, Decoder.resync_of_idx_zero now ibusBudgetUs hidx, hidx, hv, if_true]

/-- A byte that selects none is rejected (R232). -/
theorem ibusFeed_reject (now : Word) (hidx : u.dec.idx = 0) (hv : ibusDetect u b = none) :
    ibusFeed u b now = .ok ({ u with dec := u.dec.reject }, false) := by
  simp only [ibusFeed, Decoder.resync_of_idx_zero now ibusBudgetUs hidx, hidx, hv, if_true]

/-- Settles O44: the two models' first bytes are detected (`ibusFeed_detect`), any other byte is rejected (`ibusFeed_reject`). -/
theorem ibusFeedDetectsModel : Obligations.IbusFeedDetectsModel := by
  intro s b hidx
  have hwork (hwf : s.ibus.dec.work.wf = true) (k : Nat) :
      (s.ibus.dec.work.write 0 b).read k = if k = 0 then b else s.ibus.dec.work.read k := Memory.read_write hwf 0 k b
  refine ⟨fun hb hwf => ⟨_, hwork hwf, ?ia6b⟩, fun hb hwf => ⟨_, hwork hwf, ?ia6⟩, fun h20 h04 h55 => ?other⟩
  case ia6b => exact exec_ibusFeed_of_feed (ibusFeed_detect s.env.timeUs hidx (ibusDetect_ia6b s.ibus hb))
  case ia6 =>
    subst hb
    exact exec_ibusFeed_of_feed (ibusFeed_detect s.env.timeUs hidx (ibusDetect_ia6 s.ibus))
  case other =>
    exact exec_ibusFeed_of_feed (ibusFeed_reject s.env.timeUs hidx (ibusDetect_other s.ibus (not_or.mpr ⟨h20, h04⟩) h55))

/-! ## The bytes after it -/

theorem ibusFeed_eq_data {now : Word} (hidx : u.dec.idx ≠ 0) (ht : (now - u.dec.start).toNat ≤ ibusBudgetUs.toNat) :
    ibusFeed u b now = ibusData u b := by
  simp only [ibusFeed, Decoder.resync_in_time ht, hidx, if_false]

/-- A byte before the last (R234). -/
theorem ibusData_more (b : Byte) (hbuf : u.dec.idx.toNat < ibusBuf) (hmore : u.dec.idx + 1 ≠ u.size) :
    ibusData u b =
      .ok ({ u with dec := { u.dec with work := u.dec.work.write u.dec.idx.toNat b, idx := u.dec.idx + 1 } }, false) := by
  simp only [ibusData, Decoder.store_eq hbuf, hmore, if_false]

/-- The last byte of a telemetry frame, which is dropped (R236). -/
theorem ibusData_telemetry (b : Byte) (hbuf : u.dec.idx.toNat < ibusBuf) (hlast : u.dec.idx + 1 = u.size) (hsize : u.size = 4) :
    ibusData u b = .ok ({ u with dec := { u.dec with work := u.dec.work.write u.dec.idx.toNat b, idx := 0 } }, false) := by
  simp only [ibusData, Decoder.store_eq hbuf, hlast, hsize, if_true]

/-- The last byte of a longer frame, which is published with the registers its first byte latched (R235). -/
theorem ibusData_publish (b : Byte) (hbuf : u.dec.idx.toNat < ibusBuf) (hlast : u.dec.idx + 1 = u.size) (hsize : u.size ≠ 4)
    (hfits : u.size.toNat ≤ ibusBuf) :
    ibusData u b = .ok ({ u with dec := u.dec.complete [b] u.size, soffset := u.offset, sseed := u.seed }, true) := by
  simp only [ibusData, Decoder.store_eq hbuf, hlast, hsize, if_true, if_false, Decoder.publish_eq hfits]
  rfl

/-- Settles O45: a byte before the last is stored (`ibusData_more`); the last drops a telemetry frame (`ibusData_telemetry`) and
publishes a longer one (`ibusData_publish`). -/
theorem ibusFeedDataByte : Obligations.IbusFeedDataByte := by
  intro s b hlo hbuf htime hwork hstable
  have hidx : s.ibus.dec.idx ≠ 0 := by bv_omega
  have hnext : (s.ibus.dec.idx + 1).toNat = s.ibus.dec.idx.toNat + 1 := by bv_omega
  have hlast (heq : s.ibus.dec.idx.toNat + 1 = s.ibus.size.toNat) : s.ibus.dec.idx + 1 = s.ibus.size :=
    BitVec.eq_of_toNat_eq (hnext.trans heq)
  have hfeed := ibusFeed_eq_data (b := b) hidx htime
  refine ⟨s.ibus.dec.work.write s.ibus.dec.idx.toNat b, fun k => Memory.read_write hwork _ k b, fun hne => ?more,
    fun heq hsize => ?telemetry, fun heq hsize => ⟨_, Memory.read_publish hstable s.ibus.size.toNat, ?publish⟩⟩
  case more =>
    have hmore : s.ibus.dec.idx + 1 ≠ s.ibus.size := fun h => hne (hnext.symm.trans (congrArg BitVec.toNat h))
    exact exec_ibusFeed_of_feed (hfeed.trans (ibusData_more b hbuf hmore))
  case telemetry => exact exec_ibusFeed_of_feed (hfeed.trans (ibusData_telemetry b hbuf (hlast heq) hsize))
  case publish =>
    have hfits : s.ibus.size.toNat ≤ ibusBuf := heq ▸ hbuf
    exact exec_ibusFeed_of_feed (hfeed.trans (ibusData_publish b hbuf (hlast heq) hsize hfits))

end Sys2Proof.Machine
end

section
/-! What IBUS.UNPACK does without a frame that passes the check (spec/43_ibus.md R240, R243), and the latch IBUS.GETMODEL reads
(R245). -/

namespace Sys2Proof.Machine

variable {u : IbusUnit}

/-- An empty unit gives nothing (R240). -/
theorem ibusUnpack_of_empty (hempty : u.dec.empty = true) : ibusUnpack u = .ok (u, false) := if_pos hempty

/-- A frame in the buffer that fails the check is consumed (R240, R243). -/
theorem ibusUnpack_of_not_frameOk (hfull : u.dec.empty = false) (hslen : u.dec.slen.toNat ≤ ibusBuf)
    (hbad : ibusFrameOk u.dec.stable u.dec.slen.toNat u.soffset.toNat u.sseed = false) :
    ibusUnpack u = .ok ({ u with dec := { u.dec with empty := true } }, false) := by
  have hinside : ¬ (ibusBuf < u.dec.slen.toNat ∧ u.soffset.toNat + 30 ≤ u.dec.slen.toNat) := by omega
  simp only [ibusUnpack, hfull, hinside, hbad, Bool.false_eq_true, Bool.not_false, if_true, if_false]

/-- Settles O47: an empty unit, and a frame whose sum is not its checksum, which fails the check (`ibusFrameOk_iff`). -/
theorem ibusUnpackRejects : Obligations.IbusUnpackRejects := by
  intro s
  refine ⟨fun hempty => ?empty, fun hfull hshape hsum => ?bad⟩
  case empty => exact congrArg s.endIbus (ibusUnpack_of_empty hempty)
  case bad =>
    have hslen : s.ibus.dec.slen.toNat ≤ ibusBuf := by
      obtain ⟨hslen, -⟩ | ⟨hslen, -⟩ := hshape <;> rw [hslen] <;> decide
    have hbad : ibusFrameOk s.ibus.dec.stable s.ibus.dec.slen.toNat s.ibus.soffset.toNat s.ibus.sseed = false := by
      rw [← Bool.not_eq_true, ibusFrameOk_iff]
      exact fun hok => hsum hok.2
    exact congrArg s.endIbus (ibusUnpack_of_not_frameOk hfull hslen hbad)

/-- MODEL and OFFSET stand side by side in the result (R245). -/
theorem ibusModelWord_toNat (u : IbusUnit) :
    (ibusModelWord u).toNat = (modelBits u.model).toNat + 2 ^ 8 * u.offset.toNat := by
  have hmodel : ((modelBits u.model).setWidth 32).toNat = (modelBits u.model).toNat := BitVec.toNat_setWidth_of_le (by decide)
  have hoffset : (u.offset.setWidth 32 <<< 8).toNat = 2 ^ 8 * u.offset.toNat := by
    rw [BitVec.toNat_shiftLeft, Nat.shiftLeft_eq, BitVec.toNat_setWidth_of_le (by decide)]
    omega
  have hlt : (modelBits u.model).toNat < 2 ^ 8 := by omega
  rw [ibusModelWord, BitVec.toNat_or, hmodel, hoffset, Nat.or_comm, ← Nat.two_pow_add_eq_or_of_lt hlt, Nat.add_comm]

/-- Settles O23: the result is `ibusModelWord`, with MODEL in its encoding of R37. -/
theorem ibusGetmodelReadsLatch : Obligations.IbusGetmodelReadsLatch := by
  intro s
  refine ⟨ibusModelWord s.ibus, rfl, ?_⟩
  rw [ibusModelWord_toNat]
  cases s.ibus.model <;> rfl

end Sys2Proof.Machine
end

section
/-! The CRSF check against a damaged byte (spec/44_validators.md R261, R262; spec/41_crsf.md R184): any other value of one byte from
the frame's type to its CRC makes a frame that passed fail. -/

namespace Sys2Proof.Machine

/-- The same bytes keep two registers that differ apart (R261). -/
theorem crc8_seed_injective {x y : Byte} (bs : List Byte) (h : crc8 x bs = crc8 y bs) : x = y := by
  induction bs generalizing x y with
  | nil => exact h
  | cons b bs ih => exact crc8Step_left_injective (ih h)

/-- The CRC of a range, cut at the byte at index `a + p`. -/
theorem crc8_bytes_split (f : Memory) (seed : Byte) (a p q : Nat) :
    crc8 seed (f.bytes a (p + (q + 1))) =
      crc8 (crc8Step (crc8 seed (f.bytes a p)) (f.read (a + p))) (f.bytes (a + p + 1) q) := by
  rw [Memory.bytes_add, Memory.bytes_succ, crc8_append]
  rfl

/-- The frame check (R262): the frame is long enough, and the CRC of its bytes is its last byte. -/
theorem crsfFrameOk_iff (f : Memory) (len : Nat) :
    crsfFrameOk f len = true ↔ 4 ≤ len ∧ crc8 crc8Seed (f.bytes 2 (len - 3)) = f.read (len - 1) := by
  rw [crsfFrameOk, Bool.and_eq_true, decide_eq_true_iff, decide_eq_true_iff]

section
variable {f f' : Memory} {j : Nat}

/-- Ranges that differ in one byte have different CRCs: the registers agree up to that byte, part at it
(`crc8Step_right_injective`), and stay apart (`crc8_seed_injective`). -/
theorem crc8_ne_of_one_byte (hsame : ∀ i ≠ j, f'.read i = f.read i) (hdiff : f'.read j ≠ f.read j)
    {a n : Nat} (hlo : a ≤ j) (hhi : j < a + n) (seed : Byte) : crc8 seed (f'.bytes a n) ≠ crc8 seed (f.bytes a n) := by
  obtain ⟨p, rfl⟩ := Nat.exists_eq_add_of_le hlo
  obtain ⟨q, rfl⟩ : ∃ q, n = p + (q + 1) := ⟨n - p - 1, by omega⟩
  have hbefore : f'.bytes a p = f.bytes a p := Memory.bytes_congr fun k _ => hsame _ (by omega)
  have hafter : f'.bytes (a + p + 1) q = f.bytes (a + p + 1) q := Memory.bytes_congr fun k _ => hsame _ (by omega)
  rw [crc8_bytes_split, crc8_bytes_split, hbefore, hafter]
  exact fun hcrc => hdiff (crc8Step_right_injective (crc8_seed_injective _ hcrc))

/-- A frame that passed fails once one covered byte has another value: a byte before the last moves the computed CRC and not the
one in the frame, the last byte the one in the frame and not the computed one. -/
theorem crsfFrameOk_eq_false_of_one_byte {len : Nat} (hok : crsfFrameOk f len = true) (hlo : 2 ≤ j) (hhi : j < len)
    (hsame : ∀ i ≠ j, f'.read i = f.read i) (hdiff : f'.read j ≠ f.read j) : crsfFrameOk f' len = false := by
  obtain ⟨hlen, hcrc⟩ := (crsfFrameOk_iff ..).mp hok
  rw [← Bool.not_eq_true, crsfFrameOk_iff]
  rintro ⟨-, hcrc'⟩
  by_cases hlast : j = len - 1
  case pos =>
    have hbytes : f'.bytes 2 (len - 3) = f.bytes 2 (len - 3) := Memory.bytes_congr fun k _ => hsame _ (by omega)
    rw [hbytes, hcrc, ← hlast] at hcrc'
    exact hdiff hcrc'.symm
  case neg =>
    rw [hsame (len - 1) (Ne.symm hlast), ← hcrc] at hcrc'
    exact crc8_ne_of_one_byte hsame hdiff hlo (by omega) crc8Seed hcrc'

end

/-- Settles O26: the flipped byte has another value, every other byte its own (`crsfFrameOk_eq_false_of_one_byte`). -/
theorem crsfSingleBitFlipDetected : Obligations.CrsfSingleBitFlipDetected := by
  intro f len j k hwf hok hlo hhi hk
  refine crsfFrameOk_eq_false_of_one_byte hok hlo hhi (fun i hi => Memory.read_write_other f _ hi) ?_
  rw [Memory.read_write_same hwf]
  exact xor_bit_ne _ hk

end Sys2Proof.Machine
end

section
/-! The two validator commands (spec/44_validators.md R263, R264): what VAL.CRC8 and VAL.SUM16 compute. -/

namespace Sys2Proof.Machine

/-- `n` bits of the CRC are its one-bit step applied `n` times (R261). -/
theorem crc8Shifts_eq_iterate (n : Nat) (x : Byte) : crc8Shifts n x = crc8Shift^[n] x := by
  induction n generalizing x with
  | zero => rfl
  | succ n ih => rw [crc8Shifts, ih, Function.iterate_succ_apply]

/-- Settles O24: the CRC step is eight one-bit steps (`crc8Shifts_eq_iterate`). -/
theorem valCrc8Result : Obligations.ValCrc8Result := fun _ ci b =>
  ⟨crc8Step ci b, rfl, crc8Shifts_eq_iterate 8 (ci ^^^ b)⟩

/-- The pair of VAL.SUM16 is the upper half of its word (R264). -/
theorem le16_byteOf_upper_toNat (w : Word) : (le16 (byteOf w 2) (byteOf w 3)).toNat = w.toNat / 2 ^ 16 := by
  rw [le16_toNat]
  simp only [byteOf, BitVec.extractLsb'_toNat, Nat.shiftRight_eq_div_pow]
  omega

/-- The sum of VAL.SUM16 (R264): the lower half of its word plus the upper half, mod 2^16. -/
theorem sum16Word_toNat (w : Word) : (sum16Word w).toNat = (w.toNat % 2 ^ 16 + w.toNat / 2 ^ 16) % 2 ^ 16 := by
  rw [sum16Word, BitVec.toNat_add, le16_byteOf_upper_toNat, BitVec.extractLsb'_toNat, Nat.shiftRight_zero]

/-- Settles O25: the result is `sum16Word`, widened to a word. -/
theorem valSum16Result : Obligations.ValSum16Result := fun _ w =>
  ⟨(sum16Word w).setWidth 32, rfl, (BitVec.toNat_setWidth_of_le (by decide)).trans (sum16Word_toNat w)⟩

end Sys2Proof.Machine
end

section
/-! The primary's address (spec/45_peer_transceiver.md R289): no step of any agent changes or unsets it once it is set. -/

namespace Sys2Proof.Machine

/-- The slot keeps the address it has: if `k` has one set, `k'` has the same set. -/
def Slot.KeepsAddress (k k' : Slot) : Prop := k.aset = true → k'.aset = true ∧ k'.addr = k.addr

theorem Slot.KeepsAddress.of_eq {k k' : Slot} (haset : k'.aset = k.aset) (haddr : k'.addr = k.addr) : k.KeepsAddress k' :=
  fun h => ⟨haset.trans h, haddr⟩

/-- Once the primary is bound, a source does not bind it again (R291). -/
theorem Transceiver.bind_of_bound {t : Transceiver} (h : t.pri.aset = true) (src : Addr) : t.bind src = t := by
  obtain ⟨-, hunset, -⟩ | ⟨-, e⟩ := t.bind_cases src
  · simp [h] at hunset
  · exact e

/-- PT.RX copies data into a slot and leaves the address of a bound primary (R291, R293). -/
theorem ptReceive_keepsAddress {t t' : Transceiver} {src : Addr} {data : List Byte} {tick r : Word}
    (h : ptReceive t src data tick = .ok (t', r)) : t.pri.KeepsAddress t'.pri := by
  intro hbound
  have hbind := Transceiver.bind_of_bound hbound src
  obtain ⟨-, rfl, -⟩ | ⟨-, -, -, k, hk, rfl⟩ | ⟨-, -, -, -, k, -, rfl⟩ | ⟨-, -, -, rfl, -⟩ := ptReceive_cases h
  case inl => exact ⟨hbound, rfl⟩
  case inr.inl =>
    obtain ⟨haset, haddr, -⟩ := Slot.receive_frame (hbind ▸ hk)
    exact ⟨haset.trans hbound, haddr⟩
  case inr.inr.inl => rw [hbind]; exact ⟨hbound, rfl⟩
  case inr.inr.inr => rw [hbind]; exact ⟨hbound, rfl⟩

/-- Of the commands, PT.SET_PRIMARY_ADDR alone writes the primary's address by its operand, and it fails on a bound primary (R286). -/
theorem Effect.keeps_primaryAddress {i : Instr} {s s' : State} (h : Effect i s s') : s.pt.pri.KeepsAddress s'.pt.pri := by
  cases h with
  | take _ _ t v _ =>
    obtain ⟨a, b, e⟩ := State.clearReady_pt s t
    rw [State.finish_pt, e]
    exact .of_eq rfl rfl
  | setPrimaryAddr _ a hunset => exact fun hbound => by simp [hunset] at hbound
  | rx _ src data t r hr => exact ptReceive_keepsAddress hr
  | _ => exact .of_eq rfl rfl

/-- Settles O12, by what one step can do (`step_effect`): nothing, one send of an announcement, or one command. -/
theorem primaryAddressImmutable : Obligations.PrimaryAddressImmutable := by
  intro s s' hstep
  change s.pt.pri.KeepsAddress s'.pt.pri
  obtain ⟨⟨-, -, -, hpt⟩, -⟩ | ⟨s0, ⟨-, -, -, hpt⟩, -, -, rfl⟩ | ⟨s0, i, ⟨-, -, -, hpt⟩, -, -, he⟩ |
    ⟨s0, i, ⟨-, -, -, hpt⟩, -, -, he⟩ := step_effect hstep
  · rw [hpt]; exact .of_eq rfl rfl
  · rw [(ptBcastIdSend_slots s0).1, hpt]; exact .of_eq rfl rfl
  · exact hpt ▸ he.keeps_primaryAddress
  · exact hpt ▸ he.keeps_primaryAddress

end Sys2Proof.Machine
end

section
/-! PT.RX by its sender (spec/45_peer_transceiver.md R290 to R295): the primary, or the source that becomes it; the secondary; any
other source. -/

namespace Sys2Proof.Machine

/-! ## Binding and the copy -/

/-- A slot whose address is set already has the address that setting it again would give. -/
theorem Slot.set_own_address {k : Slot} (h : k.aset = true) : { k with addr := k.addr, aset := true } = k := by
  rw [← h]

/-- The transceiver with the primary bound to `src` (R291). -/
def Transceiver.boundTo (t : Transceiver) (src : Addr) : Transceiver :=
  { t with pri := { t.pri with addr := src, aset := true } }

/-- The bound primary, and a source that binds it, leave the primary bound to the source (R291). -/
theorem Transceiver.bind_eq_boundTo {t : Transceiver} {src : Addr} (hreg : t.pri.reg = true)
    (h : (t.pri.aset = true ∧ src = t.pri.addr) ∨ (t.pri.aset = false ∧ src ≠ zeroAddr ∧ src ≠ t.sec.addr)) :
    t.bind src = t.boundTo src := by
  obtain ⟨hbound, rfl⟩ | ⟨hunset, hzero, hsec⟩ := h
  case inl => rw [Transceiver.bind_of_bound hbound, Transceiver.boundTo, Slot.set_own_address hbound]
  case inr =>
    obtain ⟨-, -, -, -, e⟩ | ⟨hcannot, -⟩ := t.bind_cases src
    · exact e
    · exact absurd ⟨hreg, hunset, hzero, hsec⟩ hcannot

/-- A source that cannot bind the primary leaves the transceiver as it is (R291). -/
theorem Transceiver.bind_eq_self {t : Transceiver} {src : Addr}
    (h : ¬ (t.pri.reg = true ∧ t.pri.aset = false ∧ src ≠ zeroAddr ∧ src ≠ t.sec.addr)) : t.bind src = t := by
  obtain ⟨hreg, hunset, hzero, hsec, -⟩ | ⟨-, e⟩ := t.bind_cases src
  · exact absurd ⟨hreg, hunset, hzero, hsec⟩ h
  · exact e

/-- A slot does not hear a source other than its own registered address (R292). -/
theorem Slot.hears_eq_false {k : Slot} {src : Addr} (h : ¬ (k.reg = true ∧ k.aset = true ∧ src = k.addr)) :
    k.hears src = false := by
  rw [← Bool.not_eq_true, Slot.hears_iff]
  exact fun ⟨hreg, haset, haddr⟩ => h ⟨hreg, haset, haddr.symm⟩

/-- The slot after the copy of a delivered frame (R293). -/
def Slot.filled (k : Slot) (data : List Byte) : Slot :=
  { k with
    buf := k.buf.writeBytes 0 (data.take (min data.length k.cap.toNat))
    len := BitVec.ofNat 16 (min data.length k.cap.toNat) }

theorem Slot.receive_eq_filled {k : Slot} (h : k.cap.toNat ≤ ptCapMax) (data : List Byte) :
    k.receive data = .ok (k.filled data) :=
  Slot.receive_eq h data

/-! ## The three ends of PT.RX -/

section
variable {t : Transceiver} {src : Addr} {data : List Byte} {tick : Word}

/-- Delivery to the primary (R293 to R295). -/
theorem ptReceive_to_primary (hbcast : src ≠ bcastAddr) (hbind : t.bind src = t.boundTo src) (hreg : t.pri.reg = true)
    (hcap : t.pri.cap.toNat ≤ ptCapMax) :
    ptReceive t src data tick = .ok ({ t with
      pri := (t.boundTo src).pri.filled data, rxcount := t.rxcount + 1, tickDelta := tick - t.lastTick, lastTick := tick
      readyPri := true }, 1) := by
  have hhears : (t.boundTo src).pri.hears src = true := (Slot.hears_iff ..).mpr ⟨hreg, rfl, rfl⟩
  have hcopy : (t.boundTo src).pri.receive data = .ok ((t.boundTo src).pri.filled data) :=
    Slot.receive_eq_filled (k := (t.boundTo src).pri) hcap data
  simp only [ptReceive, if_neg hbcast, hbind, hhears, if_true, Transceiver.deliverPri, hcopy, Except.map]
  rfl

/-- Delivery to the secondary, which never binds the primary (R291, R293, R295). -/
theorem ptReceive_to_secondary (hbcast : src ≠ bcastAddr) (hpri : ¬ (t.pri.reg = true ∧ t.pri.aset = true ∧ src = t.pri.addr))
    (hreg : t.sec.reg = true) (haset : t.sec.aset = true) (haddr : src = t.sec.addr) (hcap : t.sec.cap.toNat ≤ ptCapMax) :
    ptReceive t src data tick = .ok ({ t with sec := t.sec.filled data, readySec := true }, 2) := by
  have hbind : t.bind src = t := Transceiver.bind_eq_self fun ⟨_, _, _, hsec⟩ => hsec haddr
  have hhears : t.sec.hears src = true := (Slot.hears_iff ..).mpr ⟨hreg, haset, haddr.symm⟩
  simp only [ptReceive, if_neg hbcast, hbind, Slot.hears_eq_false hpri, hhears, Bool.false_eq_true, if_false, if_true,
    Transceiver.deliverSec, Slot.receive_eq_filled hcap, Except.map]

/-- A frame of a broadcast source is discarded (R290). -/
theorem ptReceive_of_broadcast : ptReceive t bcastAddr data tick = .ok (t, 0) := if_pos rfl

/-- A frame of a source that is no peer and cannot become one is discarded (R292). -/
theorem ptReceive_of_foreign (hbcast : src ≠ bcastAddr)
    (hpri : ¬ (t.pri.reg = true ∧ t.pri.aset = true ∧ src = t.pri.addr))
    (hbind : ¬ (t.pri.reg = true ∧ t.pri.aset = false ∧ src ≠ zeroAddr ∧ src ≠ t.sec.addr))
    (hsec : ¬ (t.sec.reg = true ∧ t.sec.aset = true ∧ src = t.sec.addr)) :
    ptReceive t src data tick = .ok (t, 0) := by
  simp only [ptReceive, if_neg hbcast, Transceiver.bind_eq_self hbind, Slot.hears_eq_false hpri, Slot.hears_eq_false hsec,
    Bool.false_eq_true, if_false]

end

/-- PT.RX ends with what the receive sequencer answers (R290). -/
theorem exec_ptRx_of_receive {s : State} {src : Addr} {data : List Byte} {t : Transceiver} {r : Word}
    (h : ptReceive s.pt src data s.env.tick = .ok (t, r)) :
    exec (.ptRx src data) s = .next { s with pt := t, reply := some ⟨.ok, r, []⟩ } :=
  congrArg s.endRx h

/-- Settles O51: bound already or bound by this frame, the primary has the source's address and hears it
(`Transceiver.bind_eq_boundTo`). -/
theorem ptRxDeliversToPrimary : Obligations.PtRxDeliversToPrimary := by
  intro s src data hbcast hreg hsender hslot
  exact ⟨_, Slot.read_received hslot.bufWf data,
    exec_ptRx_of_receive (ptReceive_to_primary hbcast (Transceiver.bind_eq_boundTo hreg hsender) hreg hslot.capMax)⟩

/-- Settles O52: the secondary's own address does not bind the primary, and the primary does not hear it. -/
theorem ptRxDeliversToSecondary : Obligations.PtRxDeliversToSecondary := by
  intro s src data hbcast hreg haset haddr hpri hslot
  exact ⟨_, Slot.read_received hslot.bufWf data,
    exec_ptRx_of_receive (ptReceive_to_secondary hbcast hpri hreg haset haddr hslot.capMax)⟩

/-- Settles O53: a broadcast source is discarded at once, any other foreign source by both slots. -/
theorem ptRxDiscardsForeign : Obligations.PtRxDiscardsForeign := by
  intro s src data hforeign
  refine exec_ptRx_of_receive (t := s.pt) ?_
  by_cases hbcast : src = bcastAddr
  case pos => rw [hbcast]; exact ptReceive_of_broadcast
  case neg =>
    obtain ⟨hpri, hbind, hsec⟩ := hforeign.resolve_left hbcast
    exact ptReceive_of_foreign hbcast hpri hbind hsec

end Sys2Proof.Machine
end

section
/-! The end of a command that fails (spec/00_scope.md R12, spec/60_exceptions.md R409). -/

namespace Sys2Proof.Machine

/-- A command or step that ends in `failWith` has failed (R12, R409). -/
theorem exists_failed {x : Result} {s : State} {st : Status} (h : x = .next (s.failWith st)) :
    ∃ s', x = .next s' ∧ Failed s st s' :=
  ⟨_, h, _, rfl⟩

end Sys2Proof.Machine
end

section
/-! The sends of an announcement (spec/45_peer_transceiver.md R298, R299): one per turn of the consumer, and by induction over the
turns what `k` of them leave. -/

namespace Sys2Proof.Machine

/-- The request each send of an announcement makes (R299). -/
def bindRequest : Transmission := ⟨bcastAddr, Config.bindPacket Config.myChannel Config.myAddr⟩

/-- The state `k` accepted sends of an announcement later (R298). -/
def State.afterSends (s : State) (k : Nat) (e : Env) (rest : List Turn) : State :=
  { s with
    turns := rest, env := e
    radioTx := s.radioTx ++ List.replicate k bindRequest
    reply := if k = s.pt.bidLeft.toNat then some ⟨.ok, 0, []⟩ else none
    pt := { s.pt with
      bidActive := decide (k < s.pt.bidLeft.toNat)
      bidLeft := s.pt.bidLeft - BitVec.ofNat 8 k } }

variable {s : State} {t : Turn} {ts rest : List Turn}

/-- The consumer's turn in an announcement performs one send (R298). -/
theorem step_announcement (hturns : s.turns = t :: ts) (ha : t.agent = .consumer) (hbid : s.pt.bidActive = true) :
    step s = .next (ptBcastIdSend (s.beginTurn t ts)) := by
  rw [step_of_turn hturns, ha]
  exact if_pos hbid

/-- One send the radio accepts (R298): the last one ends the command, any other leaves one send fewer. -/
theorem step_announcement_accepted (hturns : s.turns = t :: ts) (ht : t.agent = .consumer ∧ t.env.radioOk = true)
    (hbid : s.pt.bidActive = true) (hleft : s.pt.bidLeft ≠ 0) : step s = .next (s.afterSends 1 t.env ts) := by
  obtain ⟨ha, hok⟩ := ht
  rw [step_announcement hturns ha hbid]
  obtain ⟨hrefused, -⟩ | ⟨-, hlast, e⟩ | ⟨-, hmore, e⟩ := ptBcastIdSend_cases (s.beginTurn t ts)
  case inl => simp [hok] at hrefused
  case inr.inl =>
    have hlast : s.pt.bidLeft = 1 := hlast
    rw [e, State.afterSends, hlast]
    rfl
  case inr.inr =>
    have hmore : 1 < s.pt.bidLeft.toNat := by
      have hmore : s.pt.bidLeft ≠ 1 := hmore
      generalize s.pt.bidLeft = left at hleft hmore
      bv_omega
    rw [e, State.afterSends, if_neg (Nat.ne_of_lt hmore), decide_eq_true hmore, ← hbid]
    rfl

/-- One send and then `k` more are `k + 1` sends. -/
theorem State.afterSends_afterSends (hleft : s.pt.bidLeft ≠ 0) (k : Nat) (e e' : Env) :
    (s.afterSends 1 e ts).afterSends k e' rest = s.afterSends (k + 1) e' rest := by
  obtain ⟨hone, hpos⟩ : (s.pt.bidLeft - 1#8).toNat = s.pt.bidLeft.toNat - 1 ∧ s.pt.bidLeft.toNat ≠ 0 := by
    generalize s.pt.bidLeft = left at hleft
    bv_omega
  have hended : k = s.pt.bidLeft.toNat - 1 ↔ k + 1 = s.pt.bidLeft.toNat := by omega
  have hactive : k < s.pt.bidLeft.toNat - 1 ↔ k + 1 < s.pt.bidLeft.toNat := by omega
  have hrest : s.pt.bidLeft - 1#8 - BitVec.ofNat 8 k = s.pt.bidLeft - BitVec.ofNat 8 (k + 1) := by
    rw [Nat.add_comm, BitVec.ofNat_add, sub_sub]
  simp only [State.afterSends, hone, hended, hactive, hrest, List.append_assoc, List.replicate_one, List.singleton_append,
    ← List.replicate_succ]

/-- Turns of the consumer in an announcement whose packets the radio accepts, by induction over them. -/
theorem run_announcement (hbid : s.pt.bidActive = true) (hleft : ts.length + 1 ≤ s.pt.bidLeft.toNat)
    (hturns : s.turns = t :: (ts ++ rest)) (hts : ∀ x ∈ t :: ts, x.agent = .consumer ∧ x.env.radioOk = true) :
    ∃ e, Host.Core.run Sys2Proof.core (ts.length + 1) s = .next (s.afterSends (ts.length + 1) e rest) := by
  induction ts generalizing s t with
  | nil =>
    have hne : s.pt.bidLeft ≠ 0 := fun h => by simp [h] at hleft
    exact ⟨t.env, run_succ (step_announcement_accepted hturns (hts t List.mem_cons_self) hbid hne) 0⟩
  | cons t' ts ih =>
    have hne : s.pt.bidLeft ≠ 0 := fun h => by simp [h] at hleft
    have hstep := step_announcement_accepted hturns (hts t List.mem_cons_self) hbid hne
    rw [List.length_cons] at hleft ⊢
    have hbid' : (s.afterSends 1 t.env (t' :: ts ++ rest)).pt.bidActive = true := decide_eq_true (by omega)
    have hleft' : ts.length + 1 ≤ (s.afterSends 1 t.env (t' :: ts ++ rest)).pt.bidLeft.toNat := by
      change ts.length + 1 ≤ (s.pt.bidLeft - 1).toNat
      generalize s.pt.bidLeft = left at hne hleft
      bv_omega
    obtain ⟨e, hrun⟩ := ih hbid' hleft' rfl fun x hx => hts x (List.mem_cons_of_mem t hx)
    exact ⟨e, by rw [run_succ hstep, hrun, State.afterSends_afterSends hne]⟩

/-- Settles O56, by the run of its turns (`run_announcement`), of which there is at least one. -/
theorem ptBcastIdSends : Obligations.PtBcastIdSends := by
  intro s ts rest hbid _ hsome hlen hturns hts
  obtain ⟨t, ts, rfl⟩ := List.exists_cons_of_ne_nil hsome
  exact run_announcement hbid hlen hturns hts

/-- Settles O57: a refused send ends with RADIO (`ptBcastIdSend_cases`). -/
theorem ptBcastIdAborts : Obligations.PtBcastIdAborts := by
  intro s e ts hturns hbid hrefused
  have hstep := step_announcement hturns rfl hbid
  obtain ⟨-, hend⟩ | ⟨hok, -⟩ | ⟨hok, -⟩ := ptBcastIdSend_cases (s.beginTurn ⟨.consumer, e⟩ ts)
  · exact exists_failed (hstep.trans (congrArg _ hend))
  · simp [hrefused] at hok
  · simp [hrefused] at hok

end Sys2Proof.Machine
end

section
/-! WAIT (spec/46_decoder_interface.md R334, R344, R354; spec/45_peer_transceiver.md R304): the WAIT of every signal is one operation. -/

namespace Sys2Proof.Machine

/-- The WAIT of a signal that exists, a unit's or a peer's, is `State.wait` (R304, R334, R344, R354). -/
theorem exec_waitInstr {s : State} {w : PendingWait} (hw : pendingWaitOk w) :
    exec w.instr s = .next (s.wait w.target w.mode) := by
  obtain ⟨target, mode⟩ := w
  cases target with
  | crsf | sbus | ibus => rfl
  | peer p => exact congrArg Host.Outcome.next (if_pos (hw p rfl))

/-- A set signal is taken in either mode (R304, R334). -/
theorem State.wait_of_ready {s : State} {g : WaitTarget} (h : s.readyOf g = true) (m : WaitMode) :
    s.wait g m = (s.clearReady g).finish 1 :=
  if_pos h

/-- Settles O22: on a clear signal a WAIT ends by its timeout or blocks (`State.wait_cases`). -/
theorem waitOnClearSignal : Obligations.WaitOnClearSignal := by
  intro s w hclear hw
  rw [exec_waitInstr hw]
  obtain ⟨hready, -⟩ | ⟨-, hmode, hout, e⟩ | ⟨-, hwaits, e⟩ := s.wait_cases w.target w.mode
  case inl => simp [hclear] at hready
  case inr.inl => exact ⟨fun _ _ => congrArg Host.Outcome.next e, fun h => by simp [hmode, hout] at h⟩
  case inr.inr => exact ⟨fun hmode hout => by simp [hmode, hout] at hwaits, fun _ => congrArg Host.Outcome.next e⟩

/-- Settles O59: TAKE by its definition, WAIT by `State.wait_of_ready`. -/
theorem ptTakeAndWaitTakeSignal : Obligations.PtTakeAndWaitTakeSignal := by
  intro s m
  exact ⟨rfl, rfl, fun h => congrArg Host.Outcome.next (State.wait_of_ready (g := .peer .pri) h m),
    fun h => congrArg Host.Outcome.next (State.wait_of_ready (g := .peer .sec) h m)⟩

end Sys2Proof.Machine
end

section
/-! The transceiver's setup commands (spec/45_peer_transceiver.md R283 to R288). -/

namespace Sys2Proof.Machine

/-- Settles O48, by the two ends of PT.SETUP_PRIMARY (`ptSetupPrimary_cases`). -/
theorem ptSetupPrimaryRegisters : Obligations.PtSetupPrimaryRegisters := by
  intro s enc ch cap
  obtain ⟨hbig, e⟩ | ⟨hfits, e⟩ := ptSetupPrimary_cases enc ch cap s
  · exact ⟨fun hfits => absurd hfits (Nat.not_le.mpr hbig), fun _ => exists_failed (congrArg _ e)⟩
  · exact ⟨fun _ => congrArg _ e, fun hbig => absurd hfits (Nat.not_le.mpr hbig)⟩

/-- Settles O49, by the three ends of PT.SET_PRIMARY_ADDR (`ptSetPrimaryAddr_cases`): each excludes the conditions of the others. -/
theorem ptSetPrimaryAddrBindsOnce : Obligations.PtSetPrimaryAddrBindsOnce := by
  intro s a
  obtain ⟨hbound, e⟩ | ⟨hunset, hrefused, e⟩ | ⟨hunset, hbcast, hzero, hsec, e⟩ := ptSetPrimaryAddr_cases a s
  case inl =>
    exact ⟨fun _ => exists_failed (congrArg _ e), fun hunset => by simp [hbound] at hunset,
      fun hunset => by simp [hbound] at hunset⟩
  case inr.inl =>
    refine ⟨fun hbound => by simp [hunset] at hbound, fun _ _ => exists_failed (congrArg _ e), fun _ hbcast hzero hsec => ?_⟩
    obtain h | h | ⟨haset, h⟩ := hrefused
    · exact absurd h hbcast
    · exact absurd h hzero
    · exact absurd h (hsec haset)
  case inr.inr =>
    refine ⟨fun hbound => by simp [hunset] at hbound, fun _ hrefused => ?_, fun _ _ _ _ => congrArg _ e⟩
    obtain h | h | h := hrefused
    · exact absurd h hbcast
    · exact absurd h hzero
    · exact absurd h hsec

/-- PT.ADD_SECONDARY with operands in range rewrites the slot (R287). -/
theorem exec_ptAddSecondary_ok {s : State} {enc : Bool} {ch : Byte} {cap : Half} {o : Option Addr} (hcap : cap.toNat ≤ 256)
    (ho : secondaryAddrRefused s.pt o = false) :
    exec (.ptAddSecondary enc ch cap o) s =
      .next (State.finish { s with pt := { s.pt with sec := (s.pt.sec.setup enc ch cap).setAddr o } } 0) := by
  obtain ⟨hbig | hrefused, -⟩ | ⟨-, -, e⟩ := ptAddSecondary_cases enc ch cap o s
  · omega
  · simp [ho] at hrefused
  · exact congrArg _ e

/-- PT.ADD_SECONDARY with an operand out of range fails with ARG (R283, R287). -/
theorem exec_ptAddSecondary_refused {s : State} {enc : Bool} {ch : Byte} {cap : Half} {o : Option Addr}
    (h : 256 < cap.toNat ∨ secondaryAddrRefused s.pt o = true) :
    exec (.ptAddSecondary enc ch cap o) s = .next (s.failWith .arg) := by
  obtain ⟨-, e⟩ | ⟨hcap, ho, -⟩ := ptAddSecondary_cases enc ch cap o s
  · exact congrArg _ e
  · simp [ho] at h
    omega

/-- Settles O50: with no address, with one that is not refused (`secondaryAddrRefused_some`), and the refusals. -/
theorem ptAddSecondaryReplacesSlot : Obligations.PtAddSecondaryReplacesSlot := by
  intro s enc ch cap
  refine ⟨fun hcap => exec_ptAddSecondary_ok hcap rfl, fun a hcap hbcast hzero hpri => exec_ptAddSecondary_ok hcap ?accepted,
    fun o h => exists_failed (exec_ptAddSecondary_refused (h.imp_right ?refused))⟩
  case accepted =>
    rw [← Bool.not_eq_true, secondaryAddrRefused_some]
    rintro (h | h | ⟨haset, h⟩)
    · exact hbcast h
    · exact hzero h
    · exact hpri haset h
  case refused =>
    rintro ⟨a, rfl, hrefused⟩
    exact (secondaryAddrRefused_some s.pt a).mpr hrefused

end Sys2Proof.Machine
end

section
/-! PT.SEND (spec/45_peer_transceiver.md R296, R297): its operand checks, and what a send with good operands does. -/

namespace Sys2Proof.Machine

variable {s : State} {p : PeerId} {isNull : Bool} {data : List Byte}

/-- An operand check of PT.SEND that fails ends it with ARG (R296). -/
theorem ptSend_of_bad_operand (h : isNull = true ∨ data = [] ∨ p = .rsv ∨ Config.radioMaxLen < data.length) :
    ptSend p isNull data s = s.failWith .arg := by
  rw [← List.length_eq_zero_iff, ← or_assoc] at h
  unfold ptSend
  split_ifs with hempty hrsv hlong
  · rfl
  · rfl
  · rfl
  all_goals exact absurd h (by simp only [hempty, hrsv, hlong, or_self, not_false_eq_true])

/-- With good operands PT.SEND needs a set address, and then sends (R296). -/
theorem ptSend_of_good_operands (hnull : isNull = false) (hdata : data ≠ []) (hlen : data.length ≤ Config.radioMaxLen)
    (hrsv : p ≠ .rsv) :
    ptSend p isNull data s =
      if sendUnbound s.pt p then s.failWith .unbound
      else if s.env.radioOk then (s.emit (sendDest s.pt p) data).finish 0
      else (s.emit (sendDest s.pt p) data).failWith .radio := by
  have hsome : ¬ (isNull = true ∨ data.length = 0) := by simp [hnull, hdata]
  simp only [ptSend, if_neg hsome, if_neg hrsv, if_neg (Nat.not_lt.mpr hlen)]

/-- The peers that cannot be sent to (R296). -/
theorem sendUnbound_iff (t : Transceiver) (p : PeerId) :
    sendUnbound t p = true ↔ (p = .pri ∧ t.pri.aset = false) ∨ (p = .sec ∧ t.sec.aset = false) := by
  cases p <;> simp [sendUnbound]

/-- Settles O54: a bad operand, an unset address, and the send with its two answers of the radio. -/
theorem ptSendTransmits : Obligations.PtSendTransmits := by
  intro s p isNull data
  refine ⟨fun h => exists_failed (congrArg _ (ptSend_of_bad_operand h)), fun hnull hdata hlen =>
    ⟨fun hunset => ?unbound, fun hset => ?sent⟩⟩
  case unbound =>
    have hrsv : p ≠ .rsv := by rintro rfl; simp at hunset
    have hsend := ptSend_of_good_operands (s := s) hnull hdata hlen hrsv
    rw [if_pos ((sendUnbound_iff ..).mpr hunset)] at hsend
    exact exists_failed (congrArg _ hsend)
  case sent =>
    have hrsv : p ≠ .rsv := by rintro rfl; simp at hset
    have hbound : ¬ sendUnbound s.pt p = true := by
      rw [sendUnbound_iff]
      obtain rfl | ⟨rfl, haset⟩ | ⟨rfl, haset⟩ := hset
      · simp
      · simp [haset]
      · simp [haset]
    have hsend := ptSend_of_good_operands (s := s) hnull hdata hlen hrsv
    rw [if_neg hbound] at hsend
    refine ⟨sendDest s.pt p, ?bcast, ?pri, ?sec, fun hok => ?accepted, fun hrefused => ?refused⟩
    case bcast | pri | sec => rintro rfl; rfl
    case accepted => exact congrArg _ (hsend.trans (if_pos hok))
    case refused => exact exists_failed (congrArg _ (hsend.trans (if_neg (by simp [hrefused]))))

end Sys2Proof.Machine
end

section
/-! The transceiver's readout commands (spec/45_peer_transceiver.md R300 to R307). -/

namespace Sys2Proof.Machine

/-- Settles O58: each readout answers its register. -/
theorem ptRegisterReadout : Obligations.PtRegisterReadout := fun _ => ⟨rfl, rfl, rfl, rfl⟩

/-- On the primary or the secondary slot a readout command does what it does (R282). -/
theorem State.onReceiver_of_receives {s t : State} {p : PeerId} (h : receives p = true) : s.onReceiver p t = t := if_pos h

/-- On a slot with no buffer a readout command fails with ARG (R282). -/
theorem State.onReceiver_of_not_receives {s t : State} {p : PeerId} (h : receives p = false) :
    s.onReceiver p t = s.failWith .arg :=
  if_neg (by simp [h])

theorem receives_iff (p : PeerId) : receives p = true ↔ p = .pri ∨ p = .sec := by simp [receives]

theorem receives_eq_false_iff (p : PeerId) : receives p = false ↔ p = .bcast ∨ p = .rsv := by
  cases p <;> decide

/-- Settles O60: a slot with a buffer by PT.READBUF's two ends (`ptReadByte_cases`), the other two slots by
`State.onReceiver_of_not_receives`. -/
theorem ptBufferReadout : Obligations.PtBufferReadout := by
  intro s p x
  refine ⟨fun hp => ?buffer, fun hp m i hi => ?noBuffer⟩
  case buffer =>
    have hreceives := (receives_iff p).mpr hp
    have hread : exec (.ptReadbuf p x) s = .next (ptReadByte (s.pt.slot p) x s) :=
      congrArg _ (State.onReceiver_of_receives hreceives)
    refine ⟨fun hin => ?_, fun hout => ?_, congrArg _ (State.onReceiver_of_receives hreceives)⟩
    · exact hread.trans (congrArg _ (if_neg (Nat.not_le.mpr hin)))
    · exact exists_failed (hread.trans (congrArg _ (if_pos hout)))
  case noBuffer =>
    have hfail (t : State) := State.onReceiver_of_not_receives (s := s) (t := t) ((receives_eq_false_iff p).mpr hp)
    simp only [List.mem_cons, List.not_mem_nil, or_false] at hi
    obtain rfl | rfl | rfl | rfl := hi <;> exact exists_failed (congrArg _ (hfail _))

end Sys2Proof.Machine
end

section
/-! The raw readout of the channels and the readiness signals of the decoder units (spec/46_decoder_interface.md R330, R333, R334,
R340, R343, R344, R350, R353, R354, R360). -/

namespace Sys2Proof.Machine

section
variable {s : State} {i : Byte} {v : Word}

/-- CRSF.CHRAW answers the raw value (R330). -/
theorem exec_crsfChraw_of_raw (h : channelRaw s.crsf.ch i = v) : exec (.crsfChraw i) s = .next (s.finish v) := h ▸ rfl

/-- SBUS.CHRAW answers the raw value (R340). -/
theorem exec_sbusChraw_of_raw (h : channelRaw s.sbus.ch i = v) : exec (.sbusChraw i) s = .next (s.finish v) := h ▸ rfl

/-- IBUS.CHRAW answers the raw value (R350). -/
theorem exec_ibusChraw_of_raw (h : channelRaw s.ibus.ch i = v) : exec (.ibusChraw i) s = .next (s.finish v) := h ▸ rfl

end

/-- Settles O18: per unit, the indices with a register (`channelRaw_of_lt`) and those beyond them (`channelRaw_of_le`). -/
theorem channelRawReadout : Obligations.ChannelRawReadout := by
  intro s i
  refine ⟨fun h16 => ?crsf, fun hout => ?crsfOut, fun h18 => ⟨?sbus, ?ibus⟩, fun hout => ⟨?sbusOut, ?ibusOut⟩⟩
  case crsf => exact exec_crsfChraw_of_raw (channelRaw_of_lt h16)
  case crsfOut => exact exec_crsfChraw_of_raw (channelRaw_of_le hout)
  case sbus => exact exec_sbusChraw_of_raw (channelRaw_of_lt h18)
  case ibus => exact exec_ibusChraw_of_raw (channelRaw_of_lt h18)
  case sbusOut => exact exec_sbusChraw_of_raw (channelRaw_of_le hout)
  case ibusOut => exact exec_ibusChraw_of_raw (channelRaw_of_le hout)

/-- A WAIT that finds its signal set takes it, whichever signal it is and in either mode (R304, R334, R344, R354). -/
theorem exec_waitInstr_of_ready {s : State} {w : PendingWait} (hw : pendingWaitOk w) (h : s.readyOf w.target = true) :
    exec w.instr s = .next ((s.clearReady w.target).finish 1) :=
  (exec_waitInstr hw).trans (congrArg _ (State.wait_of_ready h w.mode))

/-- Settles O21: TAKE by its definition, WAIT by `exec_waitInstr_of_ready`. -/
theorem unitTakeAndWaitTakeSignal : Obligations.UnitTakeAndWaitTakeSignal := by
  intro s m
  refine ⟨rfl, rfl, rfl, fun hready => ?crsf, fun hready => ?sbus, fun hready => ?ibus⟩
  case crsf => exact exec_waitInstr_of_ready (w := ⟨.crsf, m⟩) nofun hready
  case sbus => exact exec_waitInstr_of_ready (w := ⟨.sbus, m⟩) nofun hready
  case ibus => exact exec_waitInstr_of_ready (w := ⟨.ibus, m⟩) nofun hready

end Sys2Proof.Machine
end

section
/-! Nothing stops the block (spec/20_memory.md R80, spec/60_exceptions.md R404 to R409): under its invariant no operation of a unit
or of the transceiver reaches outside a buffer, so every command and every step answers a next state. -/

namespace Sys2Proof.Machine

/-! ## CRSF -/

section
variable {u : CrsfUnit}

/-- TARGET, set or not, is at most the buffer's size (R35). -/
theorem CrsfInv.target_le (h : CrsfInv u) : u.target.toNat ≤ crsfBuf := by
  obtain hunset | ⟨-, hle⟩ := h.target
  · rw [hunset]; exact Nat.zero_le _
  · exact hle

/-- A payload byte is stored, and the last one publishes a frame that fits (R175, R176). -/
theorem CrsfInv.payload_answers (h : CrsfInv u) (b : Byte) : ∃ u' r, crsfPayload u b = .ok (u', r) := by
  by_cases hlast : u.dec.idx + 1 = u.target
  · exact ⟨_, _, crsfPayload_last b h.dec.idxBelow hlast h.target_le⟩
  · exact ⟨_, _, crsfPayload_more b h.dec.idxBelow hlast⟩

theorem CrsfInv.feed_answers (h : CrsfInv u) (b : Byte) (now : Word) : ∃ u' r, crsfFeed u b now = .ok (u', r) := by
  have hpayload := (h.resync now crsfBudgetUs).payload_answers b
  unfold crsfFeed
  dsimp only
  split_ifs
  · exact ⟨_, _, rfl⟩
  · exact ⟨_, _, rfl⟩
  · exact ⟨_, _, rfl⟩
  · exact hpayload

theorem CrsfInv.unpack_answers (h : CrsfInv u) : ∃ u' r, crsfUnpack u = .ok (u', r) := by
  have hfits : ¬ crsfBuf < u.dec.slen.toNat := Nat.not_lt.mpr h.slen
  unfold crsfUnpack
  rw [if_neg hfits]
  dsimp only
  split_ifs <;> exact ⟨_, _, rfl⟩

end

/-! ## SBUS -/

section
variable {u : SbusUnit}

/-- A byte after the first is stored, and the 25th discards or publishes a frame of the buffer's size (R204, R205). -/
theorem SbusInv.data_answers (h : SbusInv u) (b : Byte) : ∃ u' r, sbusData u b = .ok (u', r) := by
  have hbelow : u.dec.idx.toNat < 25 := h.dec.idxBelow
  by_cases hmore : u.dec.idx.toNat < 24
  · exact ⟨_, _, sbusData_more b hmore⟩
  have hlast : u.dec.idx = 24 := by bv_omega
  by_cases hend : b = sbusEnd
  · subst hend
    exact ⟨_, _, sbusData_end hlast h.dec.workWf⟩
  · exact ⟨_, _, sbusData_discard hlast h.dec.workWf hend⟩

theorem SbusInv.feed_answers (h : SbusInv u) (b : Byte) (now : Word) : ∃ u' r, sbusFeed u b now = .ok (u', r) := by
  have hdata := (h.resync now sbusBudgetUs).data_answers b
  unfold sbusFeed
  dsimp only
  split_ifs
  · exact ⟨_, _, rfl⟩
  · exact ⟨_, _, rfl⟩
  · exact hdata

end

/-! ## IBUS -/

section
variable {u : IbusUnit}

/-- SIZE, latched or not, is at most the buffer's size (R37, R232). -/
theorem IbusInv.size_le (h : IbusInv u) : u.size.toNat ≤ ibusBuf := by
  obtain ⟨-, -, hsize, -⟩ | ⟨-, -, hsize | hsize, -⟩ | ⟨-, -, hsize, -⟩ := h.latch <;> rw [hsize] <;> decide

/-- SLEN is the length of no frame or of one of the two shapes, and fits the buffer (R266). -/
theorem IbusInv.slen_le (h : IbusInv u) : u.dec.slen.toNat ≤ ibusBuf := by
  obtain ⟨hlen, -⟩ | ⟨hlen, -⟩ | ⟨hlen, -⟩ := h.published <;> rw [hlen] <;> decide

/-- A byte after the first is stored, and the last one drops or publishes a frame that fits (R234 to R236). -/
theorem IbusInv.data_answers (h : IbusInv u) (b : Byte) : ∃ u' r, ibusData u b = .ok (u', r) := by
  by_cases hlast : u.dec.idx + 1 = u.size
  · by_cases htelemetry : u.size = 4
    · exact ⟨_, _, ibusData_telemetry b h.dec.idxBelow hlast htelemetry⟩
    · exact ⟨_, _, ibusData_publish b h.dec.idxBelow hlast htelemetry h.size_le⟩
  · exact ⟨_, _, ibusData_more b h.dec.idxBelow hlast⟩

theorem IbusInv.feed_answers (h : IbusInv u) (b : Byte) (now : Word) : ∃ u' r, ibusFeed u b now = .ok (u', r) := by
  have hdata := (h.resync now ibusBudgetUs).data_answers b
  unfold ibusFeed
  dsimp only
  split_ifs
  · split <;> exact ⟨_, _, rfl⟩
  · exact hdata

theorem IbusInv.unpack_answers (h : IbusInv u) : ∃ u' r, ibusUnpack u = .ok (u', r) := by
  have hfits : ¬ (ibusBuf < u.dec.slen.toNat ∧ u.soffset.toNat + 30 ≤ u.dec.slen.toNat) :=
    fun hbeyond => Nat.not_lt.mpr h.slen_le hbeyond.1
  unfold ibusUnpack
  rw [if_neg hfits]
  dsimp only
  split_ifs <;> exact ⟨_, _, rfl⟩

end

/-! ## The transceiver -/

/-- A frame is copied to a slot whose capacity fits the buffer, after a binding as before it (R291, R293, R308). -/
theorem TransceiverInv.receive_answers {t : Transceiver} (h : TransceiverInv t) (src : Addr) (data : List Byte) (tick : Word) :
    ∃ t' r, ptReceive t src data tick = .ok (t', r) := by
  by_cases hbcast : src = bcastAddr
  · subst hbcast
    exact ⟨_, _, ptReceive_of_broadcast⟩
  have hbound := h.bind hbcast
  simp only [ptReceive, if_neg hbcast, Transceiver.deliverPri, Slot.receive_eq hbound.pri.capMax, Transceiver.deliverSec,
    Slot.receive_eq hbound.sec.capMax, Except.map]
  split_ifs <;> exact ⟨_, _, rfl⟩

/-! ## One command -/

variable {s : State}

/-- Every command answers a next state: the FEEDs, the two UNPACKs that check their frame and PT.RX by their unit's invariant, and
every other command by its definition, which raises no fault. -/
theorem Inv.exec_answers (h : Inv s) (i : Instr) : ∃ s', exec i s = .next s' := by
  cases i with
  | crsfFeed b =>
    obtain ⟨u, r, hf⟩ := h.crsf.feed_answers b s.env.timeUs
    exact ⟨_, exec_crsfFeed_of_feed hf⟩
  | crsfUnpack =>
    obtain ⟨u, r, hu⟩ := h.crsf.unpack_answers
    exact ⟨_, congrArg s.endCrsf hu⟩
  | sbusFeed b =>
    obtain ⟨u, r, hf⟩ := h.sbus.feed_answers b s.env.timeUs
    exact ⟨_, exec_sbusFeed_of_feed hf⟩
  | ibusFeed b =>
    obtain ⟨u, r, hf⟩ := h.ibus.feed_answers b s.env.timeUs
    exact ⟨_, exec_ibusFeed_of_feed hf⟩
  | ibusUnpack =>
    obtain ⟨u, r, hu⟩ := h.ibus.unpack_answers
    exact ⟨_, congrArg s.endIbus hu⟩
  | ptRx src data =>
    obtain ⟨t, r, hr⟩ := h.pt.receive_answers src data s.env.tick
    exact ⟨_, exec_ptRx_of_receive hr⟩
  | _ => exact ⟨_, rfl⟩

/-! ## One step -/

/-- The invariant reads nothing of what the ports present. -/
theorem Inv.of_ports (h : Inv s) (crsf sbus ibus cmd : List Byte) (radio : List RadioFrame) :
    Inv { s with byteInCrsf := crsf, byteInSbus := sbus, byteInIbus := ibus, radioRx := radio, cmd := cmd } :=
  h.of_sameBlock ⟨rfl, rfl, rfl, rfl⟩ (.inl rfl)

/-- A consumer that leaves its blocked WAIT, to perform it again (R407). -/
theorem Inv.unblock (h : Inv s) : Inv { s with waiting := none } :=
  h.of_sameBlock ⟨rfl, rfl, rfl, rfl⟩ (.inr rfl)

theorem Inv.stepCommand_answers (h : Inv s) (a : Agent) : ∃ s', stepCommand a s = .next s' := by
  unfold stepCommand
  split
  next i rest _ =>
    split_ifs
    · exact (h.of_ports _ _ _ rest _).exec_answers i
    · exact ⟨_, rfl⟩
  next => split_ifs <;> exact ⟨_, rfl⟩
  next => exact ⟨_, rfl⟩

theorem Inv.stepAgent_answers (h : Inv s) (a : Agent) : ∃ s', stepAgent a s = .next s' := by
  have hcmd := h.stepCommand_answers a
  cases a with
  | pCrsf | pSbus | pIbus =>
    simp only [stepAgent, stepCrsfByte, stepSbusByte, stepIbusByte]
    split
    · exact hcmd
    · split_ifs
      · exact ⟨_, rfl⟩
      · exact (h.of_ports _ _ _ _ _).exec_answers _
  | pRadio =>
    simp only [stepAgent, stepRadioFrame]
    split
    · exact hcmd
    · exact (h.of_ports _ _ _ _ _).exec_answers _
  | consumer =>
    simp only [stepAgent, stepConsumer]
    split_ifs
    · exact ⟨_, rfl⟩
    · split
      · exact h.unblock.exec_answers _
      · exact hcmd

/-- Settles O10: with no turn left the block stands still, and a turn begins with the registers the invariant holds of, where every
agent's act answers a next state (`Inv.stepAgent_answers`). -/
theorem blockNeverStops : Obligations.BlockNeverStops := by
  intro s h
  cases hturns : s.turns with
  | nil => exact ⟨s, by simp only [step, hturns]⟩
  | cons t ts =>
    have hbegin : Inv (s.beginTurn t ts) := h.of_sameBlock ⟨rfl, rfl, rfl, rfl⟩ (.inl rfl)
    exact step_of_turn hturns ▸ hbegin.stepAgent_answers t.agent

end Sys2Proof.Machine
end

section
/-! The turns of the producers, of the radio and of a blocked consumer (spec/60_exceptions.md R404, R406, R407): each performs the
event presented to its agent, and a producer whose unit the consumer feeds inline does nothing. -/

namespace Sys2Proof.Machine

/-- The consumer is the only producer of this agent's unit (R406, D40). -/
def Inline.replaces (d : Inline) : Agent → Bool
  | .pCrsf => d.crsf
  | .pSbus => d.sbus
  | .pIbus => d.ibus
  | .pRadio | .consumer => false

/-- No command is issued by a producer whose unit the consumer feeds (R406). -/
theorem issuer_ne_of_replaces {d : Inline} {a : Agent} (h : d.replaces a = true) (i : Instr) : issuer d i ≠ a := by
  rintro rfl
  cases i with
  | crsfFeed b => cases hc : d.crsf <;> simp [issuer, hc, Inline.replaces] at h
  | sbusFeed b => cases hs : d.sbus <;> simp [issuer, hs, Inline.replaces] at h
  | ibusFeed b => cases hi : d.ibus <;> simp [issuer, hi, Inline.replaces] at h
  | _ => cases h

variable {s : State} {e : Env} {ts : List Turn}

/-- An agent other than the consumer that issues no command leaves CMD as it is. -/
theorem stepCommand_of_never_issuer {a : Agent} (hconsumer : a ≠ .consumer) (hissuer : ∀ i, issuer s.env.inline i ≠ a) :
    stepCommand a s = .next s := by
  unfold stepCommand
  split
  · exact if_neg (hissuer _)
  · exact if_neg hconsumer
  · rfl

/-- The turn of a producer whose unit the consumer feeds, whatever its port and CMD hold (R406, D40). -/
theorem stepAgent_of_replaced {a : Agent} (h : s.env.inline.replaces a = true) : stepAgent a s = .next s := by
  have hconsumer : a ≠ .consumer := by rintro rfl; cases h
  have hcmd := stepCommand_of_never_issuer hconsumer (issuer_ne_of_replaces h)
  cases a with
  | pCrsf | pSbus | pIbus =>
    simp only [stepAgent, stepCrsfByte, stepSbusByte, stepIbusByte]
    split
    · exact hcmd
    · exact if_pos h
  | pRadio | consumer => cases h

theorem step_of_replaced {a : Agent} (hturns : s.turns = ⟨a, e⟩ :: ts) (h : e.inline.replaces a = true) :
    step s = .next (s.beginTurn ⟨a, e⟩ ts) :=
  (step_of_turn hturns).trans (stepAgent_of_replaced h)

/-- The radio's turn with a frame presented (R404). -/
theorem step_radioFrame {t : Turn} {f : RadioFrame} {fs : List RadioFrame} (hturns : s.turns = t :: ts) (ha : t.agent = .pRadio)
    (hframes : s.radioRx = f :: fs) :
    step s = exec (.ptRx f.src f.data) { s.beginTurn t ts with radioRx := fs } := by
  simp only [step_of_turn hturns, ha, stepAgent, stepRadioFrame, State.beginTurn_radioRx, hframes]

/-- The turn of a consumer blocked at a WAIT (R407). -/
theorem step_blockedWait {t : Turn} {w : PendingWait} (hturns : s.turns = t :: ts) (ha : t.agent = .consumer)
    (hbid : s.pt.bidActive = false) (hwait : s.waiting = some w) :
    step s = exec w.instr { s.beginTurn t ts with waiting := none } := by
  simp only [step_of_turn hturns, ha, stepAgent, stepConsumer, State.beginTurn_pt, hbid, State.beginTurn_waiting, hwait,
    Bool.false_eq_true, if_false]

/-- Settles O6, one turn per clause: a producer's with a byte presented, a replaced producer's (`step_of_replaced`), the radio's and a
blocked consumer's. -/
theorem stepRunsPresentedEvent : Obligations.StepRunsPresentedEvent := by
  intro s e ts
  refine ⟨fun hturns hinline => ?crsfInline, fun b bs hturns hinline hbytes => ?crsf,
    fun hturns hinline => ?sbusInline, fun b bs hturns hinline hbytes => ?sbus,
    fun hturns hinline => ?ibusInline, fun b bs hturns hinline hbytes => ?ibus,
    fun f fs hturns hframes => ?radio, fun w hturns hbid hwait => ?blocked⟩
  case crsfInline => exact step_of_replaced hturns hinline
  case crsf => exact step_crsfByte (t := ⟨.pCrsf, e⟩) hturns rfl hinline hbytes
  case sbusInline => exact step_of_replaced hturns hinline
  case sbus => exact step_sbusByte (t := ⟨.pSbus, e⟩) hturns rfl hinline hbytes
  case ibusInline => exact step_of_replaced hturns hinline
  case ibus => exact step_ibusByte (t := ⟨.pIbus, e⟩) hturns rfl hinline hbytes
  case radio => exact step_radioFrame (t := ⟨.pRadio, e⟩) hturns rfl hframes
  case blocked => exact step_blockedWait (t := ⟨.consumer, e⟩) hturns rfl hbid hwait

end Sys2Proof.Machine
end
